-- ==== Sys2Proof/Word.lean ====
section
/-! DEFINITION. The word types of the MAE (10_state.md R20, R33; 30_encoding.md R80). -/

namespace Sys2Proof

/-- One byte of a buffer (R33). -/
abbrev Byte := BitVec 8

/-- An operand register, a bus word of the register page (R20, R52): 64 bits. -/
abbrev Word := BitVec 64

/-- A command word (R80): 32 bits. -/
abbrev CmdWord := BitVec 32

end Sys2Proof
end

