-- ==== Sys2Proof/Config.lean ====
section
/-! DEFINITION. What a build fixes (00_scope.md R6) and the values the spec leaves free (93_implementation_defined.md U1, U2). -/

namespace Sys2Proof

/-- The two OPEN parameters of R6 (U8, U9). State carries one and no step changes it. -/
structure Config where
  /-- KEYBITS: the width of the wide RSA operands, in bits. -/
  keyBits : Nat
  /-- BASE: the platform address of the window. -/
  base : Nat
  deriving DecidableEq, Repr

/-- W = KEYBITS / 8, the width of each buffer in bytes (R6, R33). -/
def Config.width (c : Config) : Nat := c.keyBits / 8

/-- Size of the window in bytes (R6, R50). -/
def Config.windowSize : Nat := 0x40000

/-- The values R6 allows the two parameters. -/
abbrev Config.Legal (c : Config) : Prop :=
  c.keyBits % 8 = 0 ∧ 8 ≤ c.keyBits ∧ c.keyBits ≤ 524288 ∧ c.base % Config.windowSize = 0

/-- The build `State.reset` stands for. DESIGN CHOICE, unsafe (log 1): the spec leaves both parameters OPEN;
2048 is the KEYBITS of the register-page rows of 95_test_vectors.md §6. No statement rests on these numbers. -/
def Config.build : Config := { keyBits := 2048, base := 0 }

/-- FREE VALUE (U1, log 5), safe: what the n-th free draw gives to a host read of R0..R15 while BUSY = 1 (R57). -/
opaque Config.busyWord : Nat → Word

/-- FREE VALUE (U1, log 5), safe: what the n-th free draw gives to a host read of a buffer byte while BUSY = 1 (R57). -/
opaque Config.busyByte : Nat → Byte

/-- FREE VALUE (U2, log 4), safe: whether the n-th free draw makes the collaborator's reply `ok` (R161). -/
opaque Config.collabOk : Nat → Bool

end Sys2Proof
end

