-- ==== Sys2Proof/Syntax.lean ====
section
/-! DEFINITION. The commands of the MAE: one constructor per row of spec/opcode_table.json (30_encoding.md R85, R86). -/

namespace Sys2Proof

/-- An operand register's number (R82): R0..R15. -/
abbrev Reg := Fin 16

/-- The commands, operands in the order of R90. A ".NW" row is the native-width mode of its command (R84). -/
inductive Instr where
  /-- MADD rd, ra, rb, rm (R104) -/
  | madd (rd ra rb rm : Reg)
  /-- MADD.NW rd, ra, rb (R104) -/
  | maddNw (rd ra rb : Reg)
  /-- MMUL rd, ra, rb, rm (R105) -/
  | mmul (rd ra rb rm : Reg)
  /-- MMUL.NW rd, ra, rb (R105) -/
  | mmulNw (rd ra rb : Reg)
  /-- MPOW rd, ra, rb, rm (R106): ra the base, rb the exponent -/
  | mpow (rd ra rb rm : Reg)
  /-- MPOW.NW rd, ra, rb (R106) -/
  | mpowNw (rd ra rb : Reg)
  /-- GCD rd, ra, rb (R123) -/
  | gcd (rd ra rb : Reg)
  /-- XGCD rd, ra, rb (R124): writes rd, rd+1, rd+2 -/
  | xgcd (rd ra rb : Reg)
  /-- MINV rd, ra, rm (R125) -/
  | minv (rd ra rm : Reg)
  /-- MRFACT rd, rn (R144): writes rd, rd+1 -/
  | mrfact (rd rn : Reg)
  /-- MRWIT rd, rn, ra, rk, rq (R145) -/
  | mrwit (rd rn ra rk rq : Reg)
  /-- MRTEST rd, rn (R146) -/
  | mrtest (rd rn : Reg)
  /-- RSA64 rd, rm, rk, rn (R163) -/
  | rsa64 (rd rm rk rn : Reg)
  /-- RSAW (R164) -/
  | rsaw
  /-- ZEROIZE (R184) -/
  | zeroize
  deriving DecidableEq, Repr

/-- The pseudo-instruction MSQR rd, ra, rm (R91). -/
def Instr.msqr (rd ra rm : Reg) : Instr := .mmul rd ra ra rm

/-- The pseudo-instruction MSQR.NW rd, ra (R91). -/
def Instr.msqrNw (rd ra : Reg) : Instr := .mmulNw rd ra ra

end Sys2Proof
end

