-- ==== Sys2Proof/Machine/State.lean ====
section
/-! DEFINITION. The state of the MAE (10_state.md R20 to R38), as plain data, and its reset (70_reset_and_hazards.md R230). -/

namespace Sys2Proof.Machine

/-- Why the machine stops. One reason, and no command raises it. -/
inductive Fault where
  /-- A host access to an address outside the window [BASE, BASE + 0x40000): the MAE does not decode it and R50 leaves
  what it does to the platform. Raised by the host access of `hostAccess` (Machine/Bus.lean), by no command.
  Safe (log 7): the model stops where the platform goes on with the MAE unchanged. -/
  | outsideWindow (addr : Nat)
  deriving DecidableEq, Repr

/-- Why a step has no meaning. -/
inductive Refusal where
  /-- The command is not modelled yet; raised by an arm of `exec` only. Safe. No arm raises it in this package. -/
  | notModelled (mnemonic : String)
  deriving DecidableEq, Repr

/-- The error codes of STATUS.ERR (R201). The MAE produces none, outOfRange, illegalCommand, badOperand, zeroModulus, collabFail. -/
inductive ErrCode where
  | none | msgTooLong | hashTooLong | outOfRange | invalidTrailer | invalidLeadingBit | invalidPadding | hashMismatch
  | illegalCommand | badOperand | zeroModulus | collabFail
  deriving DecidableEq, Repr

/-- The three byte buffers (R33): message, exponent, modulus. -/
inductive Buf where
  | m | k | n
  deriving DecidableEq, Repr

/-- The bytes of the buffers by window offset (R33, R51), in canonical form: offsets strictly rising, no byte 0 listed.
An unlisted byte reads 0, its reset value (R33, R230). -/
abbrev Memory := List Host.Cell

/-- A request on the collaborator port (R160). -/
inductive Request where
  /-- BigInt.import(B) -/
  | importBytes (bytes : List Byte)
  /-- BigInt.cmp(u, v) -/
  | cmp (u v : Nat)
  /-- BigInt.powm(b, e, n) -/
  | powm (b e n : Nat)
  /-- BigInt.export(r, W) -/
  | exportBytes (r width : Nat)
  deriving DecidableEq, Repr

/-- The value of an `ok` reply (R160). -/
inductive Answer where
  | int (v : Nat)
  | order (o : Ordering)
  | bytes (bs : List Byte)
  deriving DecidableEq, Repr

/-- How far an RSAW has got: the working values its replies have given so far (R164; datapath temporaries of R36).
The two last are final: the result bytes, or the error that ends the command. -/
inductive RsawPhase where
  | idle
  | gotM (m : Nat)
  | gotMK (m k : Nat)
  | gotMKN (m k n : Nat)
  | inRange (m k n : Nat)
  | gotR (r : Nat)
  | ready (bytes : List Byte)
  | failed (code : ErrCode)
  deriving DecidableEq, Repr

/-- One bus access of the host (R9, R50): `size` bytes at the platform address `addr`. A write carries its value in the
low 8·size bits of `data`. -/
inductive Access where
  | read (addr size : Nat)
  | write (addr size : Nat) (data : Word)
  deriving DecidableEq, Repr

/-- The bus response of a host access (R52, R53, R55). -/
inductive Response where
  /-- No access has been made. -/
  | none
  /-- OKAY to a read, with its data (a byte is zero-extended). -/
  | readOkay (data : Word)
  /-- OKAY to a write. -/
  | writeOkay
  /-- Bus error; its read data is 0. -/
  | busError
  deriving DecidableEq, Repr

/-- What can happen next (R5). The queue of these in State is the schedule. -/
inductive Input where
  /-- The host performs an access. -/
  | host (a : Access)
  /-- The engine takes its completion step (R181); an RSAW has its remaining requests answered first (R164). -/
  | engine
  /-- The engine sends the next request of the RSAW in flight (R160). -/
  | port
  /-- The collaborator replies (R161). -/
  | collab
  /-- The reset input is asserted (R230). -/
  | reset
  deriving DecidableEq, Repr

/-- The state. The first block is R38's record; the second is the model's own environment. -/
structure State where
  /-- The build (R6); no step writes it. -/
  cfg : Config
  /-- R0..R15 (R20). -/
  x : Vector Word 16
  /-- MBUF, KBUF, NBUF (R33). -/
  mem : Memory
  /-- STATUS.BUSY (R25). -/
  busy : Bool
  /-- STATUS.DONE (R26). -/
  done : Bool
  /-- STATUS.BUSYERR (R27). -/
  busyerr : Bool
  /-- STATUS.ERR (R28). -/
  err : BitVec 8
  /-- CTRL.IE (R29). -/
  ie : Bool
  /-- The CMD readback (R30). -/
  cmd : CmdWord
  /-- The command in flight (R34), as the whole CMD write value, decoded when it executes. DEDUCED, safe (log 3): R180 stores
  decode(v), R34 the word; v holds both. -/
  pending : Option Word
  /-- The outstanding collaborator request (R35). -/
  bigReq : Option Request
  /-- The working values of the RSAW in flight (R36). -/
  rsaw : RsawPhase
  /-- The model's own: what happens next, oldest first (log 2). -/
  inputs : List Input
  /-- The model's own: the collaborator's next draws already fixed, true for `ok`, oldest first (log 4). -/
  replies : List Bool
  /-- The model's own: how many free values have been drawn (log 4, log 5). -/
  draws : Nat
  /-- The model's own: the response to the latest host access (log 6). -/
  resp : Response
  deriving DecidableEq, Repr

/-- The state after reset of a build, with nothing waiting (R20 to R35, R230). -/
def State.resetWith (c : Config) : State where
  cfg := c
  x := Vector.replicate 16 0
  mem := []
  busy := false
  done := false
  busyerr := false
  err := 0
  ie := false
  cmd := 0
  pending := none
  bigReq := none
  rsaw := .idle
  inputs := []
  replies := []
  draws := 0
  resp := .none

/-- The state right after reset (R230), for the build of `Config.build` (log 1). -/
def State.reset : State := State.resetWith Config.build

end Sys2Proof.Machine
end

