-- ==== Sys2Proof/Machine/Ops.lean ====
section
/-! DEFINITION. The named operations over registers, buffer bytes and the command life cycle
(10_state.md R20, R33; 20_memory.md R53, R54; 44_system.md R180 to R182). -/

namespace Sys2Proof.Machine

/-- A register's value (R20). -/
def State.reg (s : State) (r : Reg) : Word := s.x[r.val]

/-- Write a register (R20); no register is hardwired. -/
def State.setReg (s : State) (r : Reg) (v : Word) : State := { s with x := s.x.set r.val v }

/-- The byte at an offset; an unlisted byte is 0. -/
def Memory.read : Memory → Nat → Byte
  | [], _ => 0
  | (a, b) :: rest, addr => if a = addr then b else Memory.read rest addr

/-- List a byte in front, unless it is 0 (the canonical form lists no 0). -/
def Memory.cons (addr : Nat) (v : Byte) (m : Memory) : Memory := if v = 0 then m else (addr, v) :: m

/-- Write one byte, keeping the canonical form. -/
def Memory.write : Memory → Nat → Byte → Memory
  | [], addr, v => Memory.cons addr v []
  | (a, b) :: rest, addr, v =>
    if a < addr then (a, b) :: Memory.write rest addr v
    else if a = addr then Memory.cons addr v rest
    else Memory.cons addr v ((a, b) :: rest)

/-- Write consecutive bytes from an offset upwards. -/
def Memory.writeList : Memory → Nat → List Byte → Memory
  | m, _, [] => m
  | m, addr, b :: bs => Memory.writeList (Memory.write m addr b) (addr + 1) bs

/-- The canonical form: offsets strictly rising and no byte 0 listed. -/
def Memory.wf : Memory → Bool
  | [] => true
  | [(_, b)] => b != 0
  | (a, b) :: (a', b') :: rest => decide (a < a') && b != 0 && Memory.wf ((a', b') :: rest)

/-- Window offset of byte 0 of a buffer (R51). -/
def Buf.base : Buf → Nat
  | .m => 0x10000
  | .k => 0x20000
  | .n => 0x30000

/-- Whether a window offset is a byte j < W of some buffer (R51). -/
def bufferOffset (c : Config) (off : Nat) : Bool :=
  decide (0x10000 ≤ off) && decide (off < 0x40000) && decide (off % 0x10000 < c.width)

/-- Buffer byte j (R33). -/
def State.bufByte (s : State) (b : Buf) (j : Nat) : Byte := Memory.read s.mem (b.base + j)

/-- Write buffer byte j (R33). -/
def State.setBufByte (s : State) (b : Buf) (j : Nat) (v : Byte) : State :=
  { s with mem := Memory.write s.mem (b.base + j) v }

/-- The W bytes of a buffer, byte 0 first. -/
def State.bufBytes (s : State) (b : Buf) : List Byte := (List.range s.cfg.width).map (s.bufByte b)

/-- Write a whole buffer, byte 0 first; a buffer has W bytes, so no further byte is written (R33). -/
def State.setBuf (s : State) (b : Buf) (bytes : List Byte) : State :=
  { s with mem := Memory.writeList s.mem b.base (bytes.take s.cfg.width) }

/-- import (R54): the big-endian value of a byte string, its first byte the most significant. -/
def importInt (bytes : List Byte) : Nat := bytes.foldl (fun acc b => acc * 256 + b.toNat) 0

/-- export (R54): `width` bytes, B[j] = (v div 256^(width-1-j)) mod 256, so left-zero-padded. -/
def exportInt (v width : Nat) : List Byte :=
  (List.range width).map (fun j => BitVec.ofNat 8 (v / 256 ^ (width - 1 - j)))

/-- The integer value of a buffer (R33, R54). -/
def State.bufInt (s : State) (b : Buf) : Nat := importInt (s.bufBytes b)

/-- The number of an error code (R201). -/
def ErrCode.code : ErrCode → BitVec 8
  | .none => 0
  | .msgTooLong => 1
  | .hashTooLong => 2
  | .outOfRange => 3
  | .invalidTrailer => 4
  | .invalidLeadingBit => 5
  | .invalidPadding => 6
  | .hashMismatch => 7
  | .illegalCommand => 8
  | .badOperand => 9
  | .zeroModulus => 10
  | .collabFail => 11

/-- Accept a CMD write of value v while BUSY = 0 (R180). -/
def State.accept (s : State) (v : Word) : State :=
  { s with cmd := v.setWidth 32, pending := some v, busy := true, done := false, err := 0 }

/-- The STATUS update of a completion, and the clearing of the temporaries (R181). -/
def State.finish (s : State) (c : ErrCode) : State :=
  { s with err := c.code, busy := false, done := true, pending := none, bigReq := none, rsaw := .idle }

/-- complete(writes): the command ends with ERR = 0; `s` already holds its writes (R9, R181). -/
def State.complete (s : State) : State := s.finish .none

/-- raise Error(c): the MAE's one "exception". The command ends with a non-zero ERR and no other write; nothing is saved,
no mode changes and no handler runs (R9, R182, R200, R208). There is no return (R209). -/
def State.raise (s : State) (c : ErrCode) : State := s.finish c

/-- complete(x[rd] <- v). -/
def State.completeReg (s : State) (rd : Reg) (v : Word) : State := (s.setReg rd v).complete

/-- The next register, for the multi-destination commands (R82); rd ≤ 13 or rd ≤ 14 keeps it in range. -/
def nextReg (r : Reg) (d : Nat) : Reg := Fin.ofNat 16 (r.val + d)

/-- The i-th collaborator draw from here on: true for `ok` (R161). -/
def State.replyAt (s : State) (i : Nat) : Bool :=
  match s.replies[i]? with
  | some b => b
  | none => Config.collabOk (s.draws + (i - s.replies.length))

/-- Use up one collaborator draw. -/
def State.dropReply (s : State) : State :=
  match s.replies with
  | _ :: rest => { s with replies := rest }
  | [] => { s with draws := s.draws + 1 }

/-- Use up one free value. -/
def State.drawn (s : State) : State := { s with draws := s.draws + 1 }

/-- Assert the reset input (R230, R231): every architectural element takes its reset value. The model's own queues and
draw counter belong to the environment and stay. -/
def State.resetInput (s : State) : State :=
  { State.resetWith s.cfg with inputs := s.inputs, replies := s.replies, draws := s.draws }

end Sys2Proof.Machine
end

