-- ==== Sys2Proof/Machine/Flags.lean ====
section
/-! DEFINITION. The control and status words and the interrupt (10_state.md R24 to R32; 60_exceptions.md R206). -/

namespace Sys2Proof.Machine

/-- ID (R31): ASCII "MAE1". -/
def idWord : Word := 0x000000004D414531

/-- CFG (R32): [31:0] KEYBITS, [39:32] 16, [47:40] 64, [63:48] 0. -/
def cfgWord (c : Config) : Word := (64#8).setWidth 64 <<< 40 ||| (16#8).setWidth 64 <<< 32 ||| (BitVec.ofNat 32 c.keyBits).setWidth 64

/-- CTRL (R29): bit 0 is IE, the rest read 0. -/
def State.ctrlWord (s : State) : Word := (BitVec.ofBool s.ie).setWidth 64

/-- STATUS (R24, R52): BUSY, DONE, BUSYERR in bits 0, 1, 2, ERR in [15:8], the rest read 0. -/
def State.statusWord (s : State) : Word :=
  s.err.setWidth 64 <<< 8 ||| (BitVec.ofBool s.busyerr).setWidth 64 <<< 2 ||| (BitVec.ofBool s.done).setWidth 64 <<< 1
    ||| (BitVec.ofBool s.busy).setWidth 64

/-- The CMD readback (R30), zero-extended. -/
def State.cmdReadback (s : State) : Word := s.cmd.setWidth 64

/-- The interrupt output (R206): a level, DONE and IE. -/
def State.irq (s : State) : Bool := s.done && s.ie

/-- Write CTRL (R29): only bit 0 is kept. -/
def State.writeCtrl (s : State) (v : Word) : State := { s with ie := v.getLsbD 0 }

/-- Write STATUS (R24): bit 1 clears DONE, bit 2 clears BUSYERR; nothing else changes. -/
def State.writeStatus (s : State) (v : Word) : State :=
  { s with done := s.done && !v.getLsbD 1, busyerr := s.busyerr && !v.getLsbD 2 }

/-- A host write is discarded because BUSY = 1 (R27, R57). -/
def State.discardWrite (s : State) : State := { s with busyerr := true }

end Sys2Proof.Machine
end

