-- ==== Sys2Proof/Machine/Bus.lean ====
section
/-! DEFINITION. Host accesses to the window (20_memory.md R50 to R58). -/

namespace Sys2Proof.Machine

/-- What a legal access reaches (R51). -/
inductive Slot where
  | id | cfg | ctrl | status | cmd
  | reg (r : Reg)
  /-- reserved offsets of the register page, RAZ/WI (R56) -/
  | reserved
  | byte (b : Buf) (j : Nat)
  /-- buffer bytes j ≥ W, RAZ/WI (R56) -/
  | padding
  deriving DecidableEq, Repr

/-- The register page by aligned offset (R51, R52). -/
def pageSlot (off : Nat) : Slot :=
  match off with
  | 0x000 => .id
  | 0x008 => .cfg
  | 0x010 => .ctrl
  | 0x018 => .status
  | 0x020 => .cmd
  | _ => if 0x100 ≤ off ∧ off < 0x180 then .reg (Fin.ofNat 16 ((off - 0x100) / 8)) else .reserved

/-- The buffer of a region, r = off >> 16 (R53). -/
def regionBuf (r : Nat) : Buf := if r = 1 then .m else if r = 2 then .k else .n

/-- What an access of `size` bytes at window offset `off` reaches; none is a bus error (R52, R53, R55). -/
def slotOf (c : Config) (off size : Nat) : Option Slot :=
  if off < 0x10000 then
    if size = 8 ∧ off % 8 = 0 then some (pageSlot off) else none
  else if size = 1 then
    if off % 0x10000 < c.width then some (.byte (regionBuf (off / 0x10000)) (off % 0x10000)) else some .padding
  else none

/-- Whether a read of the slot while BUSY = 1 gives a free value (R57). -/
def Slot.operand : Slot → Bool
  | .reg _ => true
  | .byte _ _ => true
  | _ => false

/-- The data of a legal read (R52, R53). -/
def State.readSlot (s : State) : Slot → Word
  | .id => idWord
  | .cfg => cfgWord s.cfg
  | .ctrl => s.ctrlWord
  | .status => s.statusWord
  | .cmd => s.cmdReadback
  | .reg r => if s.busy then Config.busyWord s.draws else s.reg r
  | .reserved => 0
  | .byte b j => (if s.busy then Config.busyByte s.draws else s.bufByte b j).setWidth 64
  | .padding => 0

/-- Bookkeeping of a legal read: a read of an operand while BUSY = 1 uses up a free value; nothing else happens (R58). -/
def State.afterRead (s : State) (t : Slot) : State := if t.operand && s.busy then s.drawn else s

/-- A legal write (R52, R53, R57). A byte write stores the low 8 bits of the data. -/
def State.writeSlot (s : State) (v : Word) : Slot → State
  | .id => s
  | .cfg => s
  | .ctrl => s.writeCtrl v
  | .status => s.writeStatus v
  | .cmd => if s.busy then s.discardWrite else s.accept v
  | .reg r => if s.busy then s.discardWrite else s.setReg r v
  | .reserved => s
  | .byte b j => if s.busy then s.discardWrite else s.setBufByte b j (v.setWidth 8)
  | .padding => s

/-- A read access at a window offset: its response recorded (R52, R53, R55). -/
def State.busRead (s : State) (off size : Nat) : State :=
  match slotOf s.cfg off size with
  | some t => { s.afterRead t with resp := .readOkay (s.readSlot t) }
  | none => { s with resp := .busError }

/-- A write access at a window offset (R52, R53, R55). -/
def State.busWrite (s : State) (off size : Nat) (v : Word) : State :=
  match slotOf s.cfg off size with
  | some t => { s.writeSlot v t with resp := .writeOkay }
  | none => { s with resp := .busError }

/-- The data a response carries (R55: a bus error carries 0). -/
def Response.data : Response → Word
  | .readOkay v => v
  | .none => 0
  | .writeOkay => 0
  | .busError => 0

/-- The platform address an access names. -/
def Access.addr : Access → Nat
  | .read a _ => a
  | .write a _ _ => a

/-- Whether the MAE decodes a platform address (R50). -/
def inWindow (c : Config) (addr : Nat) : Bool := decide (c.base ≤ addr) && decide (addr < c.base + Config.windowSize)

/-- One host access (R50): inside the window it reaches the MAE; outside, the step faults (log 7). -/
def hostAccess (a : Access) (s : State) : Host.Outcome State Fault Refusal :=
  if inWindow s.cfg a.addr then
    match a with
    | .read addr size => .next (s.busRead (addr - s.cfg.base) size)
    | .write addr size v => .next (s.busWrite (addr - s.cfg.base) size v)
  else .fault (.outsideWindow a.addr)

end Sys2Proof.Machine
end

