-- ==== Sys2Proof/Machine/Operands.lean ====
section
/-! DEFINITION. Operand forms: the tagged modulus of the modular commands (30_encoding.md R84; 40_modarith.md R100) and the
two readings of a register (00_scope.md R7). -/

namespace Sys2Proof.Machine

/-- The tagged modulus (R84): Explicit(x[rs3]) or NativeWidth. -/
inductive Modulus where
  | explicitMod (m : Word)
  | nativeWidth
  deriving DecidableEq, Repr

/-- 2^64, the native-width modulus (R6, R100). -/
def nativeMod : Nat := 18446744073709551616

/-- The modulus a value selects where 0 is the native-width sentinel (R100, R142, R162). -/
def sentinelMod (m : Word) : Nat := if m = 0 then nativeMod else m.toNat

/-- The effective modulus (R100): between 1 and 2^64. -/
def effMod : Modulus → Nat
  | .nativeWidth => nativeMod
  | .explicitMod m => sentinelMod m

/-- trunc64 (R8) of a mathematical integer: its 64-bit two's complement wrap-around. -/
def trunc64 (v : Int) : Word := BitVec.ofInt 64 v

/-- sint64 (R7): the two's complement reading. -/
def sint64 (v : Word) : Int := v.toInt

end Sys2Proof.Machine
end

