-- ==== Sys2Proof/Machine/ModArith.lean ====
section
/-! DEFINITION. The modular arithmetic engine: MADD, MMUL, MPOW in both modulus modes (40_modarith.md R100 to R106). -/

namespace Sys2Proof.Machine

/-- modAdd (R101), on unbounded integers. -/
def modAdd (a b modulus : Nat) : Nat := (a + b) % modulus

/-- modMul (R102), the product unbounded. -/
def modMul (a b modulus : Nat) : Nat := (a * b) % modulus

/-- The square-and-multiply loop of R103: `r` the result so far, `x` the running square, `e` the exponent bits left;
`fuel` at least the number of bits of `e`. -/
def modPowLoop (modulus : Nat) : Nat → Nat → Nat → Nat → Nat
  | 0, r, _, _ => r
  | fuel + 1, r, x, e =>
    if e = 0 then r
    else modPowLoop modulus fuel (if e % 2 = 1 then modMul r x modulus else r) (modMul x x modulus) (e / 2)

/-- modPow (R103): a^b mod M with a^0 = 1, by square-and-multiply; the exponent is not reduced. -/
def modPow (a b modulus : Nat) : Nat := modPowLoop modulus (b.log2 + 1) (1 % modulus) (a % modulus) b

/-- The datapath of R101 (m = 0 selects 2^64): a − (m − b) with a borrow check, every intermediate 64 bits.
Not used by the commands, which take the function it computes. -/
def modAddDatapath (a b m : Word) : Word :=
  if m = 0 then a + b
  else
    let a' := a % m
    let b' := b % m
    let t := m - b'
    if a' < t then (a' - t) + m else a' - t

/-- The double-and-add loop of R102: `r` the result so far, `x` the running double, `e` the bits of b left. -/
def modMulLoop (modulus : Nat) : Nat → Nat → Nat → Nat → Nat
  | 0, r, _, _ => r
  | fuel + 1, r, x, e =>
    if e = 0 then r
    else modMulLoop modulus fuel (if e % 2 = 1 then modAdd r x modulus else r) (modAdd x x modulus) (e / 2)

/-- The datapath of R102: double-and-add over the bits of b mod M. Not used by the commands. -/
def modMulDatapath (a b modulus : Nat) : Nat := modMulLoop modulus 64 0 (a % modulus) (b % modulus)

/-- The register result of a modular command: residues lie below M ≤ 2^64, so they fit a register (R107). -/
def residue (v : Nat) : Word := BitVec.ofNat 64 v

/-- MADD (R104) with either modulus. -/
def maddResult (s : State) (ra rb : Reg) (m : Modulus) : Word := residue (modAdd (s.reg ra).toNat (s.reg rb).toNat (effMod m))

/-- MMUL (R105) with either modulus. -/
def mmulResult (s : State) (ra rb : Reg) (m : Modulus) : Word := residue (modMul (s.reg ra).toNat (s.reg rb).toNat (effMod m))

/-- MPOW (R106) with either modulus. -/
def mpowResult (s : State) (ra rb : Reg) (m : Modulus) : Word := residue (modPow (s.reg ra).toNat (s.reg rb).toNat (effMod m))

/-- MADD rd, ra, rb, rm (R104). -/
def execMadd (rd ra rb rm : Reg) (s : State) : Host.Outcome State Fault Refusal :=
  .next (s.completeReg rd (maddResult s ra rb (.explicitMod (s.reg rm))))

/-- MADD.NW rd, ra, rb (R104). -/
def execMaddNw (rd ra rb : Reg) (s : State) : Host.Outcome State Fault Refusal :=
  .next (s.completeReg rd (maddResult s ra rb .nativeWidth))

/-- MMUL rd, ra, rb, rm (R105). -/
def execMmul (rd ra rb rm : Reg) (s : State) : Host.Outcome State Fault Refusal :=
  .next (s.completeReg rd (mmulResult s ra rb (.explicitMod (s.reg rm))))

/-- MMUL.NW rd, ra, rb (R105, R108). -/
def execMmulNw (rd ra rb : Reg) (s : State) : Host.Outcome State Fault Refusal :=
  .next (s.completeReg rd (mmulResult s ra rb .nativeWidth))

/-- MPOW rd, ra, rb, rm (R106). -/
def execMpow (rd ra rb rm : Reg) (s : State) : Host.Outcome State Fault Refusal :=
  .next (s.completeReg rd (mpowResult s ra rb (.explicitMod (s.reg rm))))

/-- MPOW.NW rd, ra, rb (R106). -/
def execMpowNw (rd ra rb : Reg) (s : State) : Host.Outcome State Fault Refusal :=
  .next (s.completeReg rd (mpowResult s ra rb .nativeWidth))

end Sys2Proof.Machine
end

