-- ==== Sys2Proof/Machine/NumTheory.lean ====
section
/-! DEFINITION. The number-theory unit: GCD, XGCD, MINV (41_numtheory.md R120 to R125). -/

namespace Sys2Proof.Machine

/-- The Euclidean iteration of R120; `fuel` at least `b`. -/
def gcdLoop : Nat → Nat → Nat → Nat
  | 0, a, _ => a
  | fuel + 1, a, b => if b = 0 then a else gcdLoop fuel b (a % b)

/-- gcd(a, b) (R120). The second operand falls at every turn, so it bounds the number of turns. -/
def gcdNat (a b : Nat) : Nat := gcdLoop b a b

/-- The result triple of the extended algorithm, over the integers (R121). -/
structure Bezout where
  d : Nat
  x : Int
  y : Int
  deriving DecidableEq, Repr

/-- The iteration of R121: remainders r0, r1 and coefficients s0, s1, t0, t1; `fuel` at least `r1`. -/
def xgcdLoop : Nat → Nat → Nat → Int → Int → Int → Int → Bezout
  | 0, r0, _, s0, _, t0, _ => ⟨r0, s0, t0⟩
  | fuel + 1, r0, r1, s0, s1, t0, t1 =>
    if r1 = 0 then ⟨r0, s0, t0⟩
    else xgcdLoop fuel r1 (r0 - r0 / r1 * r1) s1 (s0 - (r0 / r1 : Nat) * s1) t1 (t0 - (r0 / r1 : Nat) * t1)

/-- xgcd(a, b) (R121). -/
def xgcdInt (a b : Nat) : Bezout := xgcdLoop b a b 1 0 0 1

/-- minv(a, m) for m ≥ 1 (R122): 0 where no inverse exists, and the correction of an underflowed coefficient. -/
def minvWord (a m : Word) : Word :=
  let e := xgcdInt a.toNat m.toNat
  if e.d = 1 then
    let xr := trunc64 e.x
    let xc := if xr.getLsbD 63 then xr + m else xr
    xc % m
  else 0

/-- GCD rd, ra, rb (R123). -/
def execGcd (rd ra rb : Reg) (s : State) : Host.Outcome State Fault Refusal :=
  .next (s.completeReg rd (BitVec.ofNat 64 (gcdNat (s.reg ra).toNat (s.reg rb).toNat)))

/-- XGCD rd, ra, rb (R124): d, x, y to rd, rd+1, rd+2, together; an rd above 13 is an illegal command. -/
def execXgcd (rd ra rb : Reg) (s : State) : Host.Outcome State Fault Refusal :=
  if rd.val ≤ 13 then
    let e := xgcdInt (s.reg ra).toNat (s.reg rb).toNat
    .next ((((s.setReg rd (BitVec.ofNat 64 e.d)).setReg (nextReg rd 1) (trunc64 e.x)).setReg (nextReg rd 2) (trunc64 e.y)).complete)
  else .next (s.raise .illegalCommand)

/-- MINV rd, ra, rm (R125): a zero modulus is the error ZeroModulus; "no inverse" is the result 0 (R204). -/
def execMinv (rd ra rm : Reg) (s : State) : Host.Outcome State Fault Refusal :=
  if s.reg rm = 0 then .next (s.raise .zeroModulus)
  else .next (s.completeReg rd (minvWord (s.reg ra) (s.reg rm)))

end Sys2Proof.Machine
end

