-- ==== Sys2Proof/Machine/Primality.lean ====
section
/-! DEFINITION. The primality unit: MRFACT, MRWIT, MRTEST (42_primality.md R140 to R146). -/

namespace Sys2Proof.Machine

/-- The twelve witness bases, in order (R140). -/
def bases : List Nat := [2, 3, 5, 7, 11, 13, 17, 19, 23, 29, 31, 37]

/-- ctz (R8): trailing zero bits of `t`, at most `fuel`. -/
def ctz : Nat → Nat → Nat
  | 0, _ => 0
  | fuel + 1, t => if t % 2 = 1 then 0 else ctz fuel (t / 2) + 1

/-- mrFact(n) (R141): n − 1 = 2^k · q with q odd, the difference taken modulo 2^64; none is BadOperand (n = 1). -/
def mrFact (n : Word) : Option (Nat × Word) :=
  let t := n - 1
  if t = 0 then none else some (ctz 64 t.toNat, t >>> ctz 64 t.toNat)

/-- The squarings of R142: y = n − 1 now, or after one of the next squarings, `k` comparisons in all. -/
def mrSquarings (modulus t : Nat) : Nat → Nat → Bool
  | 0, _ => false
  | k + 1, y => if y = t then true else mrSquarings modulus t k (modMul y y modulus)

/-- mrWit(n, a, k, q) (R142): true is probable, false composite. n = 0 selects 2^64. -/
def mrWit (n a : Word) (k : Nat) (q : Word) : Bool :=
  let y := modPow a.toNat q.toNat (sentinelMod n)
  if y = 1 then true else mrSquarings (sentinelMod n) (n - 1).toNat k y

/-- mrTest(n) (R143): true is PRIME. -/
def mrTest (n : Word) : Bool :=
  if bases.contains n.toNat then true
  else if n.toNat % 2 = 0 then false
  else if n = 1 then false
  else
    match mrFact n with
    | some (k, q) => bases.all (fun a => mrWit n (BitVec.ofNat 64 a) k q)
    | none => false

/-- A verdict in a register: 1 or 0 (R145, R146). -/
def verdict (b : Bool) : Word := if b then 1 else 0

/-- MRFACT rd, rn (R144): k and q to rd and rd+1; n = 1 is BadOperand; an rd above 14 is an illegal command. -/
def execMrfact (rd rn : Reg) (s : State) : Host.Outcome State Fault Refusal :=
  if rd.val ≤ 14 then
    match mrFact (s.reg rn) with
    | some (k, q) => .next (((s.setReg rd (BitVec.ofNat 64 k)).setReg (nextReg rd 1) q).complete)
    | none => .next (s.raise .badOperand)
  else .next (s.raise .illegalCommand)

/-- MRWIT rd, rn, ra, rk, rq (R145): k ≥ 64 is BadOperand. -/
def execMrwit (rd rn ra rk rq : Reg) (s : State) : Host.Outcome State Fault Refusal :=
  if 64 ≤ (s.reg rk).toNat then .next (s.raise .badOperand)
  else .next (s.completeReg rd (verdict (mrWit (s.reg rn) (s.reg ra) (s.reg rk).toNat (s.reg rq))))

/-- MRTEST rd, rn (R146). -/
def execMrtest (rd rn : Reg) (s : State) : Host.Outcome State Fault Refusal :=
  .next (s.completeReg rd (verdict (mrTest (s.reg rn))))

end Sys2Proof.Machine
end

