-- ==== Sys2Proof/WellFormed.lean ====
section
/-! DEFINITION. The checks an instruction must pass beyond the widths of its fields (30_encoding.md R85, R87 cause 5). -/

namespace Sys2Proof

/-- XGCD needs rd ≤ 13 and MRFACT rd ≤ 14, so that every destination is a register (R85); nothing else is checked. -/
def Instr.wellFormed : Instr → Bool
  | .madd _ _ _ _ => true
  | .maddNw _ _ _ => true
  | .mmul _ _ _ _ => true
  | .mmulNw _ _ _ => true
  | .mpow _ _ _ _ => true
  | .mpowNw _ _ _ => true
  | .gcd _ _ _ => true
  | .xgcd rd _ _ => decide (rd.val ≤ 13)
  | .minv _ _ _ => true
  | .mrfact rd _ => decide (rd.val ≤ 14)
  | .mrwit _ _ _ _ _ => true
  | .mrtest _ _ => true
  | .rsa64 _ _ _ _ => true
  | .rsaw => true
  | .zeroize => true

end Sys2Proof
end

