-- ==== Sys2Proof/Decode.lean ====
section
/-! DEFINITION. Decoder, encoder, opcode map and assembler syntax (30_encoding.md R80 to R92). -/

namespace Sys2Proof

/-- Why a CMD write value is an illegal command: the five causes of R87, in the order R89 meets them. -/
inductive Illegal where
  /-- cause 1: v[63:32] ≠ 0 -/
  | upperHalf
  /-- cause 3: w[4:0] ≠ 0 -/
  | reservedBits
  /-- cause 2: the opcode is not assigned (R88) -/
  | reservedOpcode
  /-- cause 4: a field that must be zero is not (nw included) -/
  | nonzeroField
  /-- cause 5: XGCD with rd > 13, MRFACT with rd > 14 -/
  | rdBound
  deriving DecidableEq, Repr

/-- The fields of format C (R81). -/
structure Fields where
  op : BitVec 6
  rd : Reg
  rs1 : Reg
  rs2 : Reg
  rs3 : Reg
  rs4 : Reg
  nw : Bool
  res : BitVec 5
  deriving DecidableEq, Repr

/-- A 4-bit register field with its lowest bit at `lo` (R82). -/
def regField (w : CmdWord) (lo : Nat) : Reg := (w.extractLsb' lo 4).toFin

/-- Take a command word apart (R81). -/
def fieldsOf (w : CmdWord) : Fields where
  op := w.extractLsb' 26 6
  rd := regField w 22
  rs1 := regField w 18
  rs2 := regField w 14
  rs3 := regField w 10
  rs4 := regField w 6
  nw := w.getLsbD 5
  res := w.extractLsb' 0 5

/-- Put a command word together (R81): opcode<<26 | rd<<22 | rs1<<18 | rs2<<14 | rs3<<10 | rs4<<6 | nw<<5, and the reserved bits. -/
def Fields.word (f : Fields) : CmdWord :=
  f.op.setWidth 32 <<< 26 ||| (BitVec.ofFin f.rd : BitVec 4).setWidth 32 <<< 22
    ||| (BitVec.ofFin f.rs1 : BitVec 4).setWidth 32 <<< 18 ||| (BitVec.ofFin f.rs2 : BitVec 4).setWidth 32 <<< 14
    ||| (BitVec.ofFin f.rs3 : BitVec 4).setWidth 32 <<< 10 ||| (BitVec.ofFin f.rs4 : BitVec 4).setWidth 32 <<< 6
    ||| (BitVec.ofBool f.nw).setWidth 32 <<< 5 ||| f.res.setWidth 32

/-- Accept `i` if the fields the command does not use are zero (R85, R87 cause 4). -/
def ifZero (unusedZero : Bool) (i : Instr) : Except Illegal Instr :=
  if unusedZero then .ok i else .error .nonzeroField

/-- Accept `i` if it meets the bound on rd (R85, R87 cause 5). -/
def ifBound (i : Instr) : Except Illegal Instr :=
  if i.wellFormed then .ok i else .error .rdBound

/-- MADD, MMUL, MPOW: the explicit or the native-width row (R84, R89). -/
def decodeMod (f : Fields) (explicitMod nativeWidth : Instr) : Except Illegal Instr :=
  if f.nw then ifZero (f.rs3 == 0 && f.rs4 == 0) nativeWidth else ifZero (f.rs4 == 0) explicitMod

/-- Opcode dispatch of R89. -/
def decodeFields (f : Fields) : Except Illegal Instr :=
  match f.op.toNat with
  | 0x01 => decodeMod f (.madd f.rd f.rs1 f.rs2 f.rs3) (.maddNw f.rd f.rs1 f.rs2)
  | 0x02 => decodeMod f (.mmul f.rd f.rs1 f.rs2 f.rs3) (.mmulNw f.rd f.rs1 f.rs2)
  | 0x03 => decodeMod f (.mpow f.rd f.rs1 f.rs2 f.rs3) (.mpowNw f.rd f.rs1 f.rs2)
  | 0x04 => ifZero (f.rs3 == 0 && f.rs4 == 0 && !f.nw) (.gcd f.rd f.rs1 f.rs2)
  | 0x05 => do
    let i ← ifZero (f.rs3 == 0 && f.rs4 == 0 && !f.nw) (.xgcd f.rd f.rs1 f.rs2)
    ifBound i
  | 0x06 => ifZero (f.rs2 == 0 && f.rs4 == 0 && !f.nw) (.minv f.rd f.rs1 f.rs3)
  | 0x08 => do
    let i ← ifZero (f.rs2 == 0 && f.rs3 == 0 && f.rs4 == 0 && !f.nw) (.mrfact f.rd f.rs1)
    ifBound i
  | 0x09 => ifZero (!f.nw) (.mrwit f.rd f.rs1 f.rs2 f.rs3 f.rs4)
  | 0x0A => ifZero (f.rs2 == 0 && f.rs3 == 0 && f.rs4 == 0 && !f.nw) (.mrtest f.rd f.rs1)
  | 0x0C => ifZero (f.rs4 == 0 && !f.nw) (.rsa64 f.rd f.rs1 f.rs2 f.rs3)
  | 0x0D => ifZero (f.rd == 0 && f.rs1 == 0 && f.rs2 == 0 && f.rs3 == 0 && f.rs4 == 0 && !f.nw) .rsaw
  | 0x3F => ifZero (f.rd == 0 && f.rs1 == 0 && f.rs2 == 0 && f.rs3 == 0 && f.rs4 == 0 && !f.nw) .zeroize
  | _ => .error .reservedOpcode

/-- Decode a command word (R89 without the check of the upper half). -/
def decodeWord (w : CmdWord) : Except Illegal Instr :=
  if (fieldsOf w).res = 0 then decodeFields (fieldsOf w) else .error .reservedBits

/-- Decode a 64-bit CMD write value (R80, R89). Total; an illegal value is rejected with its cause. -/
def decode (v : Word) : Except Illegal Instr :=
  if v.extractLsb' 32 32 = 0 then decodeWord (v.setWidth 32) else .error .upperHalf

/-- All fields zero but the opcode. -/
def fieldsZero (op : BitVec 6) : Fields :=
  { op := op, rd := 0, rs1 := 0, rs2 := 0, rs3 := 0, rs4 := 0, nw := false, res := 0 }

/-- The fields of an instruction (R85). -/
def Instr.fields : Instr → Fields
  | .madd rd ra rb rm => { fieldsZero 0x01 with rd := rd, rs1 := ra, rs2 := rb, rs3 := rm }
  | .maddNw rd ra rb => { fieldsZero 0x01 with rd := rd, rs1 := ra, rs2 := rb, nw := true }
  | .mmul rd ra rb rm => { fieldsZero 0x02 with rd := rd, rs1 := ra, rs2 := rb, rs3 := rm }
  | .mmulNw rd ra rb => { fieldsZero 0x02 with rd := rd, rs1 := ra, rs2 := rb, nw := true }
  | .mpow rd ra rb rm => { fieldsZero 0x03 with rd := rd, rs1 := ra, rs2 := rb, rs3 := rm }
  | .mpowNw rd ra rb => { fieldsZero 0x03 with rd := rd, rs1 := ra, rs2 := rb, nw := true }
  | .gcd rd ra rb => { fieldsZero 0x04 with rd := rd, rs1 := ra, rs2 := rb }
  | .xgcd rd ra rb => { fieldsZero 0x05 with rd := rd, rs1 := ra, rs2 := rb }
  | .minv rd ra rm => { fieldsZero 0x06 with rd := rd, rs1 := ra, rs3 := rm }
  | .mrfact rd rn => { fieldsZero 0x08 with rd := rd, rs1 := rn }
  | .mrwit rd rn ra rk rq => { fieldsZero 0x09 with rd := rd, rs1 := rn, rs2 := ra, rs3 := rk, rs4 := rq }
  | .mrtest rd rn => { fieldsZero 0x0A with rd := rd, rs1 := rn }
  | .rsa64 rd rm rk rn => { fieldsZero 0x0C with rd := rd, rs1 := rm, rs2 := rk, rs3 := rn }
  | .rsaw => fieldsZero 0x0D
  | .zeroize => fieldsZero 0x3F

/-- The command word of an instruction (R81, R85). -/
def encode (i : Instr) : CmdWord := i.fields.word

/-- What an assembler gives (R90): the word of a well-formed instruction, and nothing for a combination R87 makes illegal. -/
def assemble (i : Instr) : Option CmdWord := if i.wellFormed then some (encode i) else none

/-- The CMD write value that issues an instruction (R80): its word, zero-extended. -/
def cmdValue (i : Instr) : Word := (encode i).setWidth 64

/-- One row of the opcode map of R86. -/
structure OpcodeRow where
  mnemonic : String
  pat : CmdWord
  mask : CmdWord
  deriving DecidableEq, Repr

/-- The row's selection test: w & mask = match (R86). -/
def OpcodeRow.selects (r : OpcodeRow) (w : CmdWord) : Bool := w &&& r.mask == r.pat

/-- The row of R86 an instruction belongs to. -/
def Instr.row : Instr → OpcodeRow
  | .madd _ _ _ _ => ⟨"MADD", 0x04000000, 0xFC0003FF⟩
  | .maddNw _ _ _ => ⟨"MADD.NW", 0x04000020, 0xFC003FFF⟩
  | .mmul _ _ _ _ => ⟨"MMUL", 0x08000000, 0xFC0003FF⟩
  | .mmulNw _ _ _ => ⟨"MMUL.NW", 0x08000020, 0xFC003FFF⟩
  | .mpow _ _ _ _ => ⟨"MPOW", 0x0C000000, 0xFC0003FF⟩
  | .mpowNw _ _ _ => ⟨"MPOW.NW", 0x0C000020, 0xFC003FFF⟩
  | .gcd _ _ _ => ⟨"GCD", 0x10000000, 0xFC003FFF⟩
  | .xgcd _ _ _ => ⟨"XGCD", 0x14000000, 0xFC003FFF⟩
  | .minv _ _ _ => ⟨"MINV", 0x18000000, 0xFC03C3FF⟩
  | .mrfact _ _ => ⟨"MRFACT", 0x20000000, 0xFC03FFFF⟩
  | .mrwit _ _ _ _ _ => ⟨"MRWIT", 0x24000000, 0xFC00003F⟩
  | .mrtest _ _ => ⟨"MRTEST", 0x28000000, 0xFC03FFFF⟩
  | .rsa64 _ _ _ _ => ⟨"RSA64", 0x30000000, 0xFC0003FF⟩
  | .rsaw => ⟨"RSAW", 0x34000000, 0xFFFFFFFF⟩
  | .zeroize => ⟨"ZEROIZE", 0xFC000000, 0xFFFFFFFF⟩

/-- The opcode map of R86, one row per command and modulus mode, in the table's order. -/
def opcodeMap : List OpcodeRow :=
  [Instr.row (.madd 0 0 0 0), Instr.row (.maddNw 0 0 0), Instr.row (.mmul 0 0 0 0), Instr.row (.mmulNw 0 0 0),
   Instr.row (.mpow 0 0 0 0), Instr.row (.mpowNw 0 0 0), Instr.row (.gcd 0 0 0), Instr.row (.xgcd 0 0 0),
   Instr.row (.minv 0 0 0), Instr.row (.mrfact 0 0), Instr.row (.mrwit 0 0 0 0 0), Instr.row (.mrtest 0 0),
   Instr.row (.rsa64 0 0 0 0), Instr.row .rsaw, Instr.row .zeroize]

/-- A register's name in assembly (R90). -/
def regName (r : Reg) : String := "R" ++ toString r.val

/-- The registers of an instruction in the order of R90's operand list. -/
def Instr.operands : Instr → List Reg
  | .madd rd ra rb rm => [rd, ra, rb, rm]
  | .maddNw rd ra rb => [rd, ra, rb]
  | .mmul rd ra rb rm => [rd, ra, rb, rm]
  | .mmulNw rd ra rb => [rd, ra, rb]
  | .mpow rd ra rb rm => [rd, ra, rb, rm]
  | .mpowNw rd ra rb => [rd, ra, rb]
  | .gcd rd ra rb => [rd, ra, rb]
  | .xgcd rd ra rb => [rd, ra, rb]
  | .minv rd ra rm => [rd, ra, rm]
  | .mrfact rd rn => [rd, rn]
  | .mrwit rd rn ra rk rq => [rd, rn, ra, rk, rq]
  | .mrtest rd rn => [rd, rn]
  | .rsa64 rd rm rk rn => [rd, rm, rk, rn]
  | .rsaw => []
  | .zeroize => []

/-- The canonical upper-case assembly text of an instruction (R90). -/
def Instr.asm (i : Instr) : String :=
  if i.operands.isEmpty then i.row.mnemonic
  else i.row.mnemonic ++ " " ++ String.intercalate ", " (i.operands.map regName)

/-- Cut a text at its commas. -/
def splitCommas : List Char → List (List Char)
  | [] => [[]]
  | c :: rest =>
    if c = ',' then [] :: splitCommas rest
    else
      match splitCommas rest with
      | [] => [[c]]
      | w :: ws => (c :: w) :: ws

/-- A register name R0 to R15, in capitals (R90). -/
def parseReg : List Char → Option Reg
  | ['R', c] => if '0' ≤ c ∧ c ≤ '9' then some (Fin.ofNat 16 (c.toNat - '0'.toNat)) else none
  | ['R', '1', c] => if '0' ≤ c ∧ c ≤ '5' then some (Fin.ofNat 16 (10 + (c.toNat - '0'.toNat))) else none
  | _ => none

/-- The registers of an operand list; spaces do not count. -/
def parseRegs (text : List Char) : Option (List Reg) :=
  let t := text.filter (fun c => c != ' ')
  if t.isEmpty then some [] else (splitCommas t).mapM parseReg

/-- The instruction a mnemonic and its operands name (R90), MSQR and MSQR.NW included (R91). -/
def ofMnemonic (name : String) (regs : List Reg) : Option Instr :=
  match name, regs with
  | "MADD", [rd, ra, rb, rm] => some (.madd rd ra rb rm)
  | "MADD.NW", [rd, ra, rb] => some (.maddNw rd ra rb)
  | "MMUL", [rd, ra, rb, rm] => some (.mmul rd ra rb rm)
  | "MMUL.NW", [rd, ra, rb] => some (.mmulNw rd ra rb)
  | "MPOW", [rd, ra, rb, rm] => some (.mpow rd ra rb rm)
  | "MPOW.NW", [rd, ra, rb] => some (.mpowNw rd ra rb)
  | "GCD", [rd, ra, rb] => some (.gcd rd ra rb)
  | "XGCD", [rd, ra, rb] => some (.xgcd rd ra rb)
  | "MINV", [rd, ra, rm] => some (.minv rd ra rm)
  | "MRFACT", [rd, rn] => some (.mrfact rd rn)
  | "MRWIT", [rd, rn, ra, rk, rq] => some (.mrwit rd rn ra rk rq)
  | "MRTEST", [rd, rn] => some (.mrtest rd rn)
  | "RSA64", [rd, rm, rk, rn] => some (.rsa64 rd rm rk rn)
  | "RSAW", [] => some .rsaw
  | "ZEROIZE", [] => some .zeroize
  | "MSQR", [rd, ra, rm] => some (.msqr rd ra rm)
  | "MSQR.NW", [rd, ra] => some (.msqrNw rd ra)
  | _, _ => none

/-- Read one line of assembly: a mnemonic, then its operands separated by commas; case does not count (R90). -/
def parseAsm (text : String) : Option Instr :=
  let chars := text.toList.map Char.toUpper
  match parseRegs (chars.dropWhile (fun c => c != ' ')) with
  | some regs => ofMnemonic (String.ofList (chars.takeWhile (fun c => c != ' '))) regs
  | none => none

/-- The word of one line of assembly, if it is legal (R90). -/
def assembleText (text : String) : Option CmdWord :=
  match parseAsm text with
  | some i => assemble i
  | none => none

/-- What the decoder reads from an instruction whose bits are `w` (numbered as spec/opcode_table.json does), the bits
above `nbits` zero. A command word is written to CMD whole (R30, R80): there are no bytes to lay out. -/
def decodeTableWord (nbits w : Nat) : Option Instr :=
  match decode (BitVec.ofNat 64 (w % 2 ^ nbits)) with
  | .ok i => some i
  | .error _ => none

end Sys2Proof
end

