-- ==== Sys2Proof/Machine/Rsa.lean ====
section
/-! DEFINITION. The RSA core: RSA64, RSAW and the collaborator port (43_rsa.md R160 to R165). -/

namespace Sys2Proof.Machine

/-- RSA64 rd, rm, rk, rn (R162, R163): m > n is OutOfRange (strict); n = 0 is the native-width sentinel. -/
def execRsa64 (rd rm rk rn : Reg) (s : State) : Host.Outcome State Fault Refusal :=
  if (s.reg rm).toNat > (s.reg rn).toNat then .next (s.raise .outOfRange)
  else .next (s.completeReg rd (mpowResult s rm rk (.explicitMod (s.reg rn))))

/-- The exact value of an `ok` reply: the collaborator contract (R161). -/
def answer : Request → Answer
  | .importBytes bytes => .int (importInt bytes)
  | .cmp u v => .order (compare u v)
  | .powm b e n => .int (modPow b e n)
  | .exportBytes r width => .bytes (exportInt r width)

/-- The request RSAW sends next, by what it has so far (R160, R164); none once its outcome is known. -/
def State.nextRequest (s : State) : Option Request :=
  match s.rsaw with
  | .idle => some (.importBytes (s.bufBytes .m))
  | .gotM _ => some (.importBytes (s.bufBytes .k))
  | .gotMK _ _ => some (.importBytes (s.bufBytes .n))
  | .gotMKN m _ n => some (.cmp m n)
  | .inRange m k n => some (.powm m k n)
  | .gotR r => some (.exportBytes r s.cfg.width)
  | .ready _ => none
  | .failed _ => none

/-- What an `ok` reply makes of what RSAW has so far (R164): cmp ≠ lt is OutOfRange. A value of the wrong kind would be
no reply of R160 and counts as a failure; `answer` gives none such. -/
def RsawPhase.absorb : RsawPhase → Answer → RsawPhase
  | .idle, .int v => .gotM v
  | .gotM m, .int v => .gotMK m v
  | .gotMK m k, .int v => .gotMKN m k v
  | .gotMKN m k n, .order .lt => .inRange m k n
  | .gotMKN _ _ _, .order _ => .failed .outOfRange
  | .inRange _ _ _, .int v => .gotR v
  | .gotR _, .bytes bs => .ready bs
  | .ready bs, _ => .ready bs
  | .failed c, _ => .failed c
  | _, _ => .failed .collabFail

/-- The command in flight is RSAW (R164). -/
def State.rsawInFlight (s : State) : Bool :=
  match s.pending with
  | some v =>
    match decode v with
    | .ok .rsaw => true
    | _ => false
  | none => false

/-- The engine sends the next request and waits; it sends none while one is outstanding (R160). -/
def State.send (s : State) : State :=
  match s.bigReq with
  | some _ => s
  | none => { s with bigReq := s.nextRequest }

/-- A turn of the engine on its port: only RSAW uses it (R160). -/
def State.portTurn (s : State) : State := if s.rsawInFlight then s.send else s

/-- A turn of the collaborator: it replies `ok` with the exact value or `fail`, by a free draw (R161). A reply to no
outstanding request (one that reset abandoned) is discarded (R231). -/
def State.collabTurn (s : State) : State :=
  match s.bigReq with
  | none => s
  | some r =>
    { s.dropReply with
      bigReq := none
      rsaw := if s.replyAt 0 then s.rsaw.absorb (answer r) else .failed .collabFail }

/-- Send and answer, `n` times; six are enough for a whole RSAW (R160). -/
def State.converse : Nat → State → State
  | 0, s => s
  | n + 1, s => State.converse n (State.collabTurn s.send)

/-- Complete an RSAW by its outcome (R164, R181): MBUF written only on success. -/
def State.rsawComplete (s : State) : State :=
  match s.rsaw with
  | .ready bytes => (s.setBuf .m bytes).complete
  | .failed c => s.raise c
  | _ => s.raise .collabFail

/-- RSAW (R164): what is left of its conversation with the collaborator, then its completion. -/
def execRsaw (s : State) : Host.Outcome State Fault Refusal := .next (State.converse 6 s).rsawComplete

end Sys2Proof.Machine
end

