-- ==== Sys2Proof/Machine/System.lean ====
section
/-! DEFINITION. ZEROIZE and the completion of an illegal command (44_system.md R184, R185; 30_encoding.md R87). -/

namespace Sys2Proof.Machine

/-- R0..R15 and every byte of the three buffers become 0 (R184). -/
def State.zeroed (s : State) : State :=
  { s with x := Vector.replicate 16 0, mem := s.mem.filter (fun c => !bufferOffset s.cfg c.1) }

/-- ZEROIZE (R184). -/
def execZeroize (s : State) : Host.Outcome State Fault Refusal := .next s.zeroed.complete

/-- An illegal command completes with IllegalCommand and writes nothing (R87). -/
def execIllegal (s : State) : Host.Outcome State Fault Refusal := .next (s.raise .illegalCommand)

end Sys2Proof.Machine
end

