-- ==== Sys2Proof/Machine/Dispatch.lean ====
section
/-! DEFINITION. execute (44_system.md R185): one meaning per command. -/

namespace Sys2Proof.Machine

def exec (i : Instr) (s : State) : Host.Outcome State Fault Refusal :=
  match i with
  | .madd rd ra rb rm => Sys2Proof.Machine.execMadd rd ra rb rm s
  | .maddNw rd ra rb => Sys2Proof.Machine.execMaddNw rd ra rb s
  | .mmul rd ra rb rm => Sys2Proof.Machine.execMmul rd ra rb rm s
  | .mmulNw rd ra rb => Sys2Proof.Machine.execMmulNw rd ra rb s
  | .mpow rd ra rb rm => Sys2Proof.Machine.execMpow rd ra rb rm s
  | .mpowNw rd ra rb => Sys2Proof.Machine.execMpowNw rd ra rb s
  | .gcd rd ra rb => Sys2Proof.Machine.execGcd rd ra rb s
  | .xgcd rd ra rb => Sys2Proof.Machine.execXgcd rd ra rb s
  | .minv rd ra rm => Sys2Proof.Machine.execMinv rd ra rm s
  | .mrfact rd rn => Sys2Proof.Machine.execMrfact rd rn s
  | .mrwit rd rn ra rk rq => Sys2Proof.Machine.execMrwit rd rn ra rk rq s
  | .mrtest rd rn => Sys2Proof.Machine.execMrtest rd rn s
  | .rsa64 rd rm rk rn => Sys2Proof.Machine.execRsa64 rd rm rk rn s
  | .rsaw => Sys2Proof.Machine.execRsaw s
  | .zeroize => Sys2Proof.Machine.execZeroize s

end Sys2Proof.Machine
end

