-- ==== Sys2Proof/Machine/Engine.lean ====
section
/-! DEFINITION. The turns of the agents (00_scope.md R5; 44_system.md R181). -/

namespace Sys2Proof.Machine

/-- The engine's turn (R181): it completes the command in flight, legal or not (R87); with none it stays idle (R216). -/
def engineTurn (s : State) : Host.Outcome State Fault Refusal :=
  match s.pending with
  | none => .next s
  | some v =>
    match decode v with
    | .ok i => exec i s
    | .error _ => execIllegal s

/-- What one input does. -/
def inputTurn (i : Input) (s : State) : Host.Outcome State Fault Refusal :=
  match i with
  | .host a => hostAccess a s
  | .engine => engineTurn s
  | .port => .next s.portTurn
  | .collab => .next s.collabTurn
  | .reset => .next s.resetInput

/-- One step: the oldest waiting input, and the engine where nothing waits (log 2). -/
def stepOnce (s : State) : Host.Outcome State Fault Refusal :=
  match s.inputs with
  | [] => engineTurn s
  | i :: rest => inputTurn i { s with inputs := rest }

/-- Put an instruction word in flight as the host's CMD write does (R180), with the engine to move next (log 9). -/
def State.issueNow (s : State) (v : Word) : State :=
  { s.accept v with bigReq := none, rsaw := .idle, inputs := .engine :: s.inputs }

end Sys2Proof.Machine
end

