-- ==== Sys2Proof/Machine/Step.lean ====
section
/-! DEFINITION. One step of the machine, and how a given instruction becomes the next to run. -/

namespace Sys2Proof.Machine

/-- One step of one agent (R5). -/
def step (s : State) : Host.Outcome State Fault Refusal := stepOnce s

/-- `s` with the instruction of bits `w` in flight, so that the next step runs it: the MAE fetches nothing (R23, R63), a
command comes by a CMD write (R30), which this stands for (log 9). -/
def State.withFetchWord (s : State) (nbits w : Nat) : State := s.issueNow (BitVec.ofNat 64 (w % 2 ^ nbits))

end Sys2Proof.Machine
end

