-- ==== Sys2Proof/Safety.lean ====
section
/-! DEFINITION. The invariant of the MAE and the vocabulary of the statements (10_state.md R38; 44_system.md R181; 60_exceptions.md R202). -/

namespace Sys2Proof

/-- The registers a command writes (R21, R82, R184). -/
def Instr.dests : Instr → List Reg
  | .madd rd _ _ _ => [rd]
  | .maddNw rd _ _ => [rd]
  | .mmul rd _ _ _ => [rd]
  | .mmulNw rd _ _ => [rd]
  | .mpow rd _ _ _ => [rd]
  | .mpowNw rd _ _ => [rd]
  | .gcd rd _ _ => [rd]
  | .xgcd rd _ _ => [rd, Machine.nextReg rd 1, Machine.nextReg rd 2]
  | .minv rd _ _ => [rd]
  | .mrfact rd _ => [rd, Machine.nextReg rd 1]
  | .mrwit rd _ _ _ _ => [rd]
  | .mrtest rd _ => [rd]
  | .rsa64 rd _ _ _ => [rd]
  | .rsaw => []
  | .zeroize => List.finRange 16

/-- The window offsets of the bytes a command may write: MBUF for RSAW, every buffer byte for ZEROIZE, none else (R21, R33, R184). -/
def Instr.storesAt (c : Config) (off : Nat) : Instr → Prop
  | .rsaw => ∃ j < c.width, off = Machine.Buf.base .m + j
  | .zeroize => Machine.bufferOffset c off = true
  | _ => False

/-- The codes a command can complete with (R202). -/
def Instr.completionCodes : Instr → List (BitVec 8)
  | .madd _ _ _ _ => [0, 8]
  | .maddNw _ _ _ => [0, 8]
  | .mmul _ _ _ _ => [0, 8]
  | .mmulNw _ _ _ => [0, 8]
  | .mpow _ _ _ _ => [0, 8]
  | .mpowNw _ _ _ => [0, 8]
  | .gcd _ _ _ => [0, 8]
  | .xgcd _ _ _ => [0, 8]
  | .minv _ _ _ => [0, 8, 10]
  | .mrfact _ _ => [0, 8, 9]
  | .mrwit _ _ _ _ _ => [0, 8, 9]
  | .mrtest _ _ => [0, 8]
  | .rsa64 _ _ _ _ => [0, 3, 8]
  | .rsaw => [0, 3, 8, 11]
  | .zeroize => [0, 8]

end Sys2Proof

namespace Sys2Proof.Machine

/-- The state in which a command has completed with registers `x'`, buffer bytes `mem'` and error code `code`: the STATUS
update of R181, no command in flight, the temporaries cleared (R36), and nothing else changed. -/
def State.completedWith (s : State) (x' : Vector Word 16) (mem' : Memory) (code : BitVec 8) : State :=
  { s with
    x := x', mem := mem', err := code, busy := false, done := true, pending := none, bigReq := none, rsaw := .idle }

/-- Whether an input is a host step (R9): one bus access. -/
def Input.isHost : Input → Bool
  | .host _ => true
  | .engine => false
  | .port => false
  | .collab => false
  | .reset => false

/-- A host program's run has ended (R242): its last host step has been performed and STATUS reads BUSY = 0. Turns of the
other agents and a reset may still wait; they are no host steps. -/
def State.RunEnded (s : State) : Prop := (∀ i ∈ s.inputs, i.isHost = false) ∧ s.busy = false

/-- The MAE state, in which R242 takes a run's end state: the model's own fields set aside, which hold what R242 does not say
(the draws, what reads returned, the host's remaining steps). -/
def State.maeState (s : State) : State := { s with inputs := [], replies := [], draws := 0, resp := .none }

/-- The run ends after `n` steps, the first point at which it has ended, with end state `t` (R242). -/
def State.RunEndsAfter (s : State) (n : Nat) (t : State) : Prop :=
  ∃ u, Host.Core.run core n s = .next u ∧ u.RunEnded ∧ t = u.maeState ∧
    ∀ k < n, ∀ v, Host.Core.run core k s = .next v → ¬ v.RunEnded

/-- RSAW's result R = M^K mod N for the buffers as they stand (R164). -/
def State.rsawValue (s : State) : Nat := s.bufInt .m ^ s.bufInt .k % s.bufInt .n

/-- What RSAW has so far is what the collaborator contract gives for the buffers as they stand (R161, R164). -/
def State.PhaseExact (s : State) : Prop :=
  match s.rsaw with
  | .idle => True
  | .gotM m => m = s.bufInt .m
  | .gotMK m k => m = s.bufInt .m ∧ k = s.bufInt .k
  | .gotMKN m k n => m = s.bufInt .m ∧ k = s.bufInt .k ∧ n = s.bufInt .n
  | .inRange m k n => m = s.bufInt .m ∧ k = s.bufInt .k ∧ n = s.bufInt .n ∧ m < n
  | .gotR r => s.bufInt .m < s.bufInt .n ∧ r = s.rsawValue
  | .ready bytes => s.bufInt .m < s.bufInt .n ∧ bytes = exportInt s.rsawValue s.cfg.width
  | .failed c => c = .collabFail ∨ (c = .outOfRange ∧ s.bufInt .n ≤ s.bufInt .m)

/-- The invariant every step keeps: R38's own clauses and what the other rules say of every reachable state. -/
structure State.Inv (s : State) : Prop where
  /-- The build is one R6 allows. -/
  cfgLegal : s.cfg.Legal
  /-- The buffer bytes are in canonical form. -/
  memWf : Memory.wf s.mem = true
  /-- Only bytes j < W of the three buffers exist (R33). -/
  memInBuffers : ∀ c ∈ s.mem, bufferOffset s.cfg c.1 = true
  /-- pending.isSome = busy (R38). -/
  busyIffPending : s.pending.isSome = s.busy
  /-- A request is outstanding only during an RSAW (R35, R38). -/
  requestOnlyRsaw : s.bigReq.isSome = true → s.rsawInFlight = true
  /-- The outstanding request is the one R164 sends at this point. -/
  requestIsNext : s.bigReq.isSome = true → s.bigReq = s.nextRequest
  /-- Working values exist only during an RSAW (R36). -/
  phaseOnlyRsaw : s.rsaw ≠ .idle → s.rsawInFlight = true
  phaseExact : s.PhaseExact
  /-- DONE is clear while a command is in flight (R26). -/
  busyNotDone : s.busy = true → s.done = false
  /-- ERR is clear while a command is in flight (R28). -/
  busyNoErr : s.busy = true → s.err = 0
  /-- ERR holds a code the MAE produces (R201). -/
  errProduced : s.err ∈ ([0, 3, 8, 9, 10, 11] : List (BitVec 8))
  /-- CMD reads back the word in flight (R30, R180). -/
  cmdIsPending : ∀ v, s.pending = some v → s.cmd = v.setWidth 32

end Sys2Proof.Machine

namespace Sys2Proof.Spec

open Sys2Proof.Machine

/-- The effective modulus of an explicit modulus value (R100): 2^64 for 0. -/
def modulus (m : Word) : Nat := if m.toNat = 0 then 2 ^ 64 else m.toNat

/-- The twelve assigned opcodes (R86). -/
def assignedOpcodes : List Nat := [0x01, 0x02, 0x03, 0x04, 0x05, 0x06, 0x08, 0x09, 0x0A, 0x0C, 0x0D, 0x3F]

/-- A field R85's table marks 0 for the opcode is not 0 (R87 cause 4): rs3 with nw = 1 and nw itself included. -/
def MarkedFieldNonzero (f : Fields) : Prop :=
  let nwOnly := f.op.toNat ∈ [0x01, 0x02, 0x03]
  (f.nw = true ∧ ¬ nwOnly)
    ∨ (f.nw = true ∧ nwOnly ∧ f.rs3 ≠ 0)
    ∨ (f.op.toNat ∈ [0x0D, 0x3F] ∧ (f.rd ≠ 0 ∨ f.rs1 ≠ 0))
    ∨ (f.op.toNat ∈ [0x06, 0x08, 0x0A, 0x0D, 0x3F] ∧ f.rs2 ≠ 0)
    ∨ (f.op.toNat ∈ [0x04, 0x05, 0x08, 0x0A, 0x0D, 0x3F] ∧ f.rs3 ≠ 0)
    ∨ (f.op.toNat ≠ 0x09 ∧ f.rs4 ≠ 0)

/-- The input the next step takes: the oldest waiting one, else the engine's turn (log 2). -/
def turn (s : State) : Input := s.inputs.headD .engine

/-- MemRead of the register page (R52). -/
def pageRead (s : State) (off : Nat) : Word :=
  if off = 0x000 then 0x000000004D414531
  else if off = 0x008 then BitVec.ofNat 64 (64 * 2 ^ 40 + 16 * 2 ^ 32 + s.cfg.keyBits % 2 ^ 32)
  else if off = 0x010 then BitVec.ofNat 64 s.ie.toNat
  else if off = 0x018 then BitVec.ofNat 64 (s.err.toNat * 2 ^ 8 + s.busyerr.toNat * 2 ^ 2 + s.done.toNat * 2 + s.busy.toNat)
  else if off = 0x020 then BitVec.ofNat 64 s.cmd.toNat
  else if 0x100 ≤ off ∧ off < 0x180 then
    if s.busy = true then Config.busyWord s.draws else s.reg (Fin.ofNat 16 ((off - 0x100) / 8))
  else 0

/-- MemWrite of the register page (R52), issue(v) being the acceptance of R180. -/
def pageWrite (s : State) (off : Nat) (v : Word) : State :=
  if off = 0x010 then { s with ie := v.getLsbD 0 }
  else if off = 0x018 then
    { s with
      done := if v.getLsbD 1 = true then false else s.done
      busyerr := if v.getLsbD 2 = true then false else s.busyerr }
  else if off = 0x020 then
    if s.busy = true then { s with busyerr := true }
    else { s with cmd := v.setWidth 32, pending := some v, busy := true, done := false, err := 0 }
  else if 0x100 ≤ off ∧ off < 0x180 then
    if s.busy = true then { s with busyerr := true } else s.setReg (Fin.ofNat 16 ((off - 0x100) / 8)) v
  else s

/-- The variables of R121's iteration. -/
structure XgcdVars where
  r0 : Int
  r1 : Int
  s0 : Int
  s1 : Int
  t0 : Int
  t1 : Int
  deriving DecidableEq, Repr

/-- One turn of R121's loop, q = r0 div r1. -/
def xgcdTurn (v : XgcdVars) : XgcdVars where
  r0 := v.r1
  r1 := v.r0 - v.r0 / v.r1 * v.r1
  s0 := v.s1
  s1 := v.s0 - v.r0 / v.r1 * v.s1
  t0 := v.t1
  t1 := v.t0 - v.r0 / v.r1 * v.t1

/-- R121's variables after n turns from (a, b). -/
def xgcdAfter (a b : Nat) (n : Nat) : XgcdVars := xgcdTurn^[n] ⟨a, b, 1, 0, 0, 1⟩

/-- One round of R142 says "probable": a^q mod N = 1, or a^(q·2^i) mod N = N − 1 for some i < k. -/
def Probable (modulus a k q : Nat) : Prop := a ^ q % modulus = 1 ∨ ∃ i < k, a ^ (q * 2 ^ i) % modulus = modulus - 1

/-- R143's verdict is PRIME. -/
def Passes (n : Nat) : Prop :=
  n ∈ [2, 3, 5, 7, 11, 13, 17, 19, 23, 29, 31, 37] ∨
    (n % 2 = 1 ∧ n ≠ 1 ∧ ∃ k q, q % 2 = 1 ∧ n - 1 = 2 ^ k * q ∧
      ∀ a ∈ [2, 3, 5, 7, 11, 13, 17, 19, 23, 29, 31, 37], Probable n a k q)

/-- How many requests R164 still sends at a point of an RSAW that meets no error. -/
def requestsLeft : RsawPhase → Nat
  | .idle => 6
  | .gotM _ => 5
  | .gotMK _ _ => 4
  | .gotMKN _ _ _ => 3
  | .inRange _ _ _ => 2
  | .gotR _ => 1
  | .ready _ => 0
  | .failed _ => 0

/-- The collaborator has given a fail reply to a request of the RSAW in flight, or gives one to a request it still sends:
the last two requests, powm and export, are sent only where M < N (R164). -/
def ReplyFails (s : State) : Prop :=
  s.rsaw = .failed .collabFail ∨
    ∃ i < requestsLeft s.rsaw, s.replyAt i = false ∧ (i + 2 < requestsLeft s.rsaw ∨ s.bufInt .m < s.bufInt .n)

/-- A schedule that runs RSAW's port request by request: `n` pairs of an engine turn on the port and a collaborator turn. -/
def portSchedule : Nat → List Input
  | 0 => []
  | n + 1 => .port :: .collab :: portSchedule n

end Sys2Proof.Spec
end

