-- ==== Sys2Proof/Certificates/Slice0/Obligations.lean ====
section
/-! DEFINITION. The statements about the model, from the numbered rules of spec/. Each docstring names its rules. -/

open Sys2Proof Sys2Proof.Machine

/-! ### Encoding (30_encoding.md) -/

/-- R81, R85, R89: every well-formed instruction's word decodes to it. -/
def Obligations.DecodeOfEncodeIsIdentity : Prop :=
  ∀ i : Instr, i.wellFormed = true → decode (cmdValue i) = .ok i

/-- R80, R87, R89: the only CMD values that decode are the zero-extended words of well-formed instructions. -/
def Obligations.DecodeAcceptsOnlyEncodings : Prop :=
  ∀ (v : Word) (i : Instr), decode v = .ok i → i.wellFormed = true ∧ v = cmdValue i

/-- R86: a word is a row's command when w & mask = match and the rd constraint of R85 holds; no two rows match one word. -/
def Obligations.DecodeFollowsOpcodeMap : Prop :=
  (∀ (w : CmdWord), ∀ r ∈ opcodeMap,
    ((∃ i, decodeWord w = .ok i ∧ i.row = r) ↔
      (w &&& r.mask = r.pat ∧ (r.mnemonic = "XGCD" → (fieldsOf w).rd.val ≤ 13) ∧
        (r.mnemonic = "MRFACT" → (fieldsOf w).rd.val ≤ 14)))) ∧
  ∀ (w : CmdWord), ∀ r ∈ opcodeMap, ∀ r' ∈ opcodeMap, w &&& r.mask = r.pat → w &&& r'.mask = r'.pat → r = r'

/-- R87: the five causes are exactly the illegal commands; an illegal command is accepted and completes with ERR = 8. -/
def Obligations.IllegalCommandCausesAndEffect : Prop :=
  (∀ v : Word, (∃ e, decode v = .error e) ↔
    (v.toNat / 2 ^ 32 ≠ 0 ∨ (fieldsOf (v.setWidth 32)).op.toNat ∉ Spec.assignedOpcodes ∨
      (fieldsOf (v.setWidth 32)).res ≠ 0 ∨ Spec.MarkedFieldNonzero (fieldsOf (v.setWidth 32)) ∨
      ((fieldsOf (v.setWidth 32)).op.toNat = 0x05 ∧ 13 < (fieldsOf (v.setWidth 32)).rd.val) ∨
      ((fieldsOf (v.setWidth 32)).op.toNat = 0x08 ∧ 14 < (fieldsOf (v.setWidth 32)).rd.val))) ∧
  ∀ (v : Word) (e : Illegal), decode v = .error e →
    (∀ s : State, s.busy = false →
      s.busWrite 0x020 8 v =
        { s with
          cmd := v.setWidth 32, pending := some v, busy := true, done := false, err := 0, resp := .writeOkay }) ∧
    ∀ s : State, s.pending = some v → engineTurn s = .next (s.completedWith s.x s.mem 8)

/-- The worked encodings of 30_encoding.md §6 (R92, which the spec marks derived from R81 and R86). -/
def Obligations.WorkedEncodings : Prop :=
  decode 0x30048C00 = .ok (.rsa64 0 1 2 3) ∧ encode (.rsa64 0 1 2 3) = 0x30048C00 ∧
  decode 0x09448020 = .ok (.mmulNw 5 1 2) ∧ encode (.mmulNw 5 1 2) = 0x09448020 ∧
  decode 0x17448000 = .ok (.xgcd 13 1 2) ∧ encode (.xgcd 13 1 2) = 0x17448000 ∧
  encode (.xgcd 14 1 2) = 0x17848000 ∧ decode 0x17848000 = .error .rdBound

/-! ### Life cycle (44_system.md) -/

/-- R180: a CMD write while idle is accepted, one while busy is not, and no host access aborts a command. -/
def Obligations.CommandAcceptance : Prop :=
  (∀ (s : State) (v : Word), s.busy = false →
    s.busWrite 0x020 8 v =
      { s with cmd := v.setWidth 32, pending := some v, busy := true, done := false, err := 0, resp := .writeOkay }) ∧
  (∀ (s : State) (v : Word), s.busy = true → s.busWrite 0x020 8 v = { s with busyerr := true, resp := .writeOkay }) ∧
  ∀ (s t : State) (a : Access), s.busy = true → hostAccess a s = .next t →
    t.busy = true ∧ t.pending = s.pending ∧ t.cmd = s.cmd ∧ t.bigReq = s.bigReq ∧ t.rsaw = s.rsaw

/-- R181, R63: the command in flight, when the engine moves, is run by exec; `withFetchWord` puts one in flight. -/
def Obligations.StepRunsDecodedInstruction : Prop :=
  (∀ (s : State) (v : Word) (i : Instr), s.pending = some v → decode v = .ok i →
    (s.inputs = [] → step s = exec i s) ∧
    ∀ rest, s.inputs = .engine :: rest → step s = exec i { s with inputs := rest }) ∧
  ∀ (s : State) (nbits w : Nat) (i : Instr), decodeTableWord nbits w = some i →
    ∃ u : State, step (s.withFetchWord nbits w) = exec i u ∧ u.x = s.x ∧ u.mem = s.mem ∧ u.inputs = s.inputs ∧
      u.busy = true ∧ u.pending = some (BitVec.ofNat 64 (w % 2 ^ nbits))

/-- R216, R232: an idle MAE with no input waiting keeps all its state (the queue is the model's own, log 2). -/
def Obligations.IdleKeepsState : Prop :=
  ∀ s : State, s.pending = none → s.inputs = [] → step s = .next s

/-- R181: every command, from every state, completes: ERR set, BUSY cleared, DONE set, nothing in flight. -/
def Obligations.EveryCommandCompletes : Prop :=
  ∀ (i : Instr) (s : State), ∃ t, exec i s = .next t ∧ t.busy = false ∧ t.done = true ∧ t.pending = none ∧
    t.bigReq = none ∧ t.rsaw = .idle

/-- R182: a command that ends with an error has no effect but the STATUS update (the draws are the model's own, log 4). -/
def Obligations.ErrorLeavesNoPartialOutput : Prop :=
  ∀ (i : Instr) (s t : State), exec i s = .next t → t.err ≠ 0 →
    t = { s.completedWith s.x s.mem t.err with replies := t.replies, draws := t.draws }

/-- The codes each command can complete with (60_exceptions.md §1, R202, which the spec marks derived), from a state whose
RSAW working values are exact. -/
def Obligations.CompletionCodesPerCommand : Prop :=
  ∀ (i : Instr) (s t : State), s.PhaseExact → exec i s = .next t → t.err ∈ i.completionCodes

/-- R240, R242: with every waiting access inside the window, what is in flight is complete one step after the queue is
empty, and where the invariant held the run has ended. -/
def Obligations.AcceptedCommandsComplete : Prop :=
  ∀ s : State, (∀ a, Input.host a ∈ s.inputs → inWindow s.cfg a.addr = true) →
    ∃ t, Host.Core.run core (s.inputs.length + 1) s = .next t ∧ t.inputs = [] ∧ t.pending = none ∧ (s.Inv → t.RunEnded)

/-- R242: the run of a host program whose accesses lie in the window ends, at the latest one step after its queue is empty;
it has ended as soon as no host step waits and BUSY = 0, whatever else waits; from then on only reset changes the MAE state.
The queue and the engine's turn are the model's (log 2, log 8). -/
def Obligations.HostRunEnds : Prop :=
  (∀ s : State, s.Inv → (∀ a, Input.host a ∈ s.inputs → inWindow s.cfg a.addr = true) →
    ∃ n ≤ s.inputs.length + 1, ∃ t, s.RunEndsAfter n t ∧ t.busy = false ∧ t.pending = none) ∧
  (∀ s : State, (∀ i ∈ s.inputs, i.isHost = false) → s.busy = false → s.RunEndsAfter 0 s.maeState) ∧
  ∀ s t : State, s.Inv → s.RunEnded → Spec.turn s ≠ .reset → step s = .next t → t.RunEnded ∧ t.maeState = s.maeState

/-! ### Frames (10_state.md R21, R33) -/

/-- R21: a command changes no register but its destinations. -/
def Obligations.RegisterFrame : Prop :=
  ∀ (i : Instr) (s t : State), exec i s = .next t → ∀ r : Reg, r ∉ i.dests → t.reg r = s.reg r

/-- R33: a command changes no byte but those it stores: MBUF for RSAW, the buffers for ZEROIZE, none for the others. -/
def Obligations.MemoryFrame : Prop :=
  ∀ (i : Instr) (s t : State), exec i s = .next t →
    ∀ off, ¬ Instr.storesAt s.cfg off i → Memory.read t.mem off = Memory.read s.mem off

/-- R27, R29, R30: no command changes CTRL, BUSYERR, the CMD readback or the build; only RSAW uses collaborator draws. -/
def Obligations.ControlFrame : Prop :=
  ∀ (i : Instr) (s t : State), exec i s = .next t →
    t.cfg = s.cfg ∧ t.ie = s.ie ∧ t.busyerr = s.busyerr ∧ t.cmd = s.cmd ∧ t.inputs = s.inputs ∧ t.resp = s.resp ∧
      (i ≠ .rsaw → t.replies = s.replies ∧ t.draws = s.draws)

/-! ### The bus (20_memory.md) -/

/-- R50: an access inside the window reaches the MAE at its offset; one outside is not decoded, where the model's step
faults (log 7). -/
def Obligations.WindowDecoding : Prop :=
  (∀ (s : State) (off size : Nat) (v : Word), off < 0x40000 →
    hostAccess (.read (s.cfg.base + off) size) s = .next (s.busRead off size) ∧
      hostAccess (.write (s.cfg.base + off) size v) s = .next (s.busWrite off size v)) ∧
  ∀ (s : State) (addr size : Nat) (v : Word), (addr < s.cfg.base ∨ s.cfg.base + 0x40000 ≤ addr) →
    hostAccess (.read addr size) s = .fault (.outsideWindow addr) ∧
      hostAccess (.write addr size v) s = .fault (.outsideWindow addr)

/-- R52: the register page. -/
def Obligations.RegisterPageAccess : Prop :=
  (∀ (s : State) (off : Nat), off < 0x10000 → off % 8 = 0 →
    s.busRead off 8 =
      { s with
        resp := .readOkay (Spec.pageRead s off)
        draws := if 0x100 ≤ off ∧ off < 0x180 ∧ s.busy = true then s.draws + 1 else s.draws }) ∧
  (∀ (s : State) (off : Nat) (v : Word), off < 0x10000 → off % 8 = 0 →
    s.busWrite off 8 v = { Spec.pageWrite s off v with resp := .writeOkay }) ∧
  ∀ (s : State) (off size : Nat) (v : Word), off < 0x10000 → (size ≠ 8 ∨ off % 8 ≠ 0) →
    s.busRead off size = { s with resp := .busError } ∧ s.busWrite off size v = { s with resp := .busError }

/-- R53: the buffer regions. A stored byte reads back and no other byte changes. -/
def Obligations.BufferRegionAccess : Prop :=
  (∀ (s : State) (off : Nat), 0x10000 ≤ off → off < 0x40000 →
    s.busRead off 1 =
      { s with
        resp := .readOkay ((if s.cfg.width ≤ off % 0x10000 then 0
          else if s.busy = true then Config.busyByte s.draws else Memory.read s.mem off).setWidth 64)
        draws := if off % 0x10000 < s.cfg.width ∧ s.busy = true then s.draws + 1 else s.draws }) ∧
  (∀ (s : State) (off : Nat) (v : Word), 0x10000 ≤ off → off < 0x40000 →
    (s.cfg.width ≤ off % 0x10000 → s.busWrite off 1 v = { s with resp := .writeOkay }) ∧
    (off % 0x10000 < s.cfg.width → s.busy = true → s.busWrite off 1 v = { s with busyerr := true, resp := .writeOkay }) ∧
    (off % 0x10000 < s.cfg.width → s.busy = false → Memory.wf s.mem = true →
      ∃ mem', s.busWrite off 1 v = { s with mem := mem', resp := .writeOkay } ∧ Memory.wf mem' = true ∧
        ∀ a, Memory.read mem' a = if a = off then v.setWidth 8 else Memory.read s.mem a)) ∧
  ∀ (s : State) (off size : Nat) (v : Word), 0x10000 ≤ off → off < 0x40000 → size ≠ 1 →
    s.busRead off size = { s with resp := .busError } ∧ s.busWrite off size v = { s with resp := .busError }

/-- R55: a bus error carries data 0 and has no effect on MAE state. -/
def Obligations.BusErrorHasNoEffect : Prop :=
  Response.data .busError = 0 ∧
  ∀ (s : State) (off size : Nat) (v : Word),
    ((s.busRead off size).resp = .busError → s.busRead off size = { s with resp := .busError }) ∧
    ((s.busWrite off size v).resp = .busError → s.busWrite off size v = { s with resp := .busError })

/-- R57: while BUSY = 1, writes to Ri, buffer bytes and CMD are discarded and set BUSYERR; reads of Ri and buffer bytes give
a fresh free value; the other accesses are as with BUSY = 0. That the free value is the opaque constant at `draws`, and that
the read advances `draws`, is the model's form of it (log 5). -/
def Obligations.AccessesWhileBusy : Prop :=
  ∀ s : State, s.busy = true →
    (∀ (r : Reg) (v : Word), s.busWrite (0x100 + 8 * r.val) 8 v = { s with busyerr := true, resp := .writeOkay }) ∧
    (∀ (b : Buf) (j : Nat) (v : Word), j < s.cfg.width → j < 0x10000 →
      s.busWrite (b.base + j) 1 v = { s with busyerr := true, resp := .writeOkay }) ∧
    (∀ v : Word, s.busWrite 0x020 8 v = { s with busyerr := true, resp := .writeOkay }) ∧
    (∀ r : Reg, s.busRead (0x100 + 8 * r.val) 8 =
      { s with resp := .readOkay (Config.busyWord s.draws), draws := s.draws + 1 }) ∧
    (∀ (b : Buf) (j : Nat), j < s.cfg.width → j < 0x10000 → s.busRead (b.base + j) 1 =
      { s with resp := .readOkay ((Config.busyByte s.draws).setWidth 64), draws := s.draws + 1 }) ∧
    (∀ off ∈ [0x000, 0x008, 0x010, 0x018, 0x020], s.busRead off 8 = { s with resp := .readOkay (Spec.pageRead s off) }) ∧
    ∀ off ∈ [0x000, 0x008, 0x010, 0x018], ∀ v : Word, s.busWrite off 8 v = { Spec.pageWrite s off v with resp := .writeOkay }

/-- R58: a read changes nothing of the MAE (the response and the draw counter are the model's own); CTRL, register and
buffer writes are idempotent. -/
def Obligations.ReadsAndIdempotentWrites : Prop :=
  (∀ (s : State) (off size : Nat), ∃ d,
    s.busRead off size = { s with resp := (s.busRead off size).resp, draws := d } ∧ s.draws ≤ d) ∧
  ∀ (s : State) (off size : Nat) (v : Word), Memory.wf s.mem = true → off ≠ 0x020 →
    (s.busWrite off size v).busWrite off size v = s.busWrite off size v

/-- R56: reserved offsets of the register page and buffer padding read 0, ignore writes and never set BUSYERR. -/
def Obligations.ReservedOffsets : Prop :=
  ∀ (s : State) (off : Nat) (v : Word),
    (off % 8 = 0 ∧ ((0x028 ≤ off ∧ off < 0x100) ∨ (0x180 ≤ off ∧ off < 0x10000)) →
      s.busRead off 8 = { s with resp := .readOkay 0 } ∧ s.busWrite off 8 v = { s with resp := .writeOkay }) ∧
    (0x10000 ≤ off ∧ off < 0x40000 ∧ s.cfg.width ≤ off % 0x10000 →
      s.busRead off 1 = { s with resp := .readOkay 0 } ∧ s.busWrite off 1 v = { s with resp := .writeOkay }) ∧
    (off = 0x000 ∨ off = 0x008 → s.busWrite off 8 v = { s with resp := .writeOkay })

/-! ### Registers, flags and the interrupt (10_state.md, 60_exceptions.md) -/

/-- R24: the STATUS register. -/
def Obligations.StatusRegister : Prop :=
  (∀ s : State, s.statusWord.getLsbD 0 = s.busy ∧ s.statusWord.getLsbD 1 = s.done ∧ s.statusWord.getLsbD 2 = s.busyerr ∧
    s.statusWord.extractLsb' 3 5 = 0 ∧ s.statusWord.extractLsb' 8 8 = s.err ∧ s.statusWord.extractLsb' 16 48 = 0) ∧
  (∀ (s : State) (v : Word), s.busWrite 0x018 8 v =
    { s with
      done := if v.getLsbD 1 = true then false else s.done
      busyerr := if v.getLsbD 2 = true then false else s.busyerr
      resp := .writeOkay }) ∧
  ∀ c : Config, (State.resetWith c).statusWord = 0

/-- R29: the CTRL register; the engine never writes it. -/
def Obligations.CtrlRegister : Prop :=
  (∀ s : State, s.ctrlWord.getLsbD 0 = s.ie ∧ s.ctrlWord.extractLsb' 1 63 = 0) ∧
  (∀ (s : State) (v : Word), s.busWrite 0x010 8 v = { s with ie := v.getLsbD 0, resp := .writeOkay }) ∧
  (∀ (s t : State), engineTurn s = .next t → t.ie = s.ie) ∧ (∀ s : State, s.portTurn.ie = s.ie) ∧
  ∀ c : Config, (State.resetWith c).ctrlWord = 0

/-- R206, R207: IRQ = DONE and IE; every completion raises it if enabled, a STATUS write with bit 1, an acceptance and reset
drop it; setting IE while DONE = 1 raises it at once and clearing IE leaves DONE. No other source: a step that raises DONE is
a completion, and one that raises IRQ is a completion or a CTRL write with bit 0 set while DONE = 1. No other clear. -/
def Obligations.InterruptLevel : Prop :=
  (∀ s : State, s.irq = (s.done && s.ie)) ∧
  (∀ (s t : State), s.pending.isSome = true → engineTurn s = .next t → t.irq = s.ie) ∧
  (∀ (s : State) (v : Word), v.getLsbD 1 = true → (s.busWrite 0x018 8 v).irq = false) ∧
  (∀ (s : State) (v : Word), s.busy = false → (s.busWrite 0x020 8 v).irq = false) ∧
  (∀ s : State, s.resetInput.irq = false) ∧
  (∀ (s : State) (v : Word), s.done = true → (s.busWrite 0x010 8 v).irq = v.getLsbD 0 ∧ (s.busWrite 0x010 8 v).done = true) ∧
  ∀ s t : State, step s = .next t →
    (s.done = false → t.done = true → Spec.turn s = .engine ∧ s.pending.isSome = true) ∧
    (s.irq = false → t.irq = true →
      (Spec.turn s = .engine ∧ s.pending.isSome = true) ∨
        (s.done = true ∧ ∃ v, Spec.turn s = .host (.write (s.cfg.base + 0x010) 8 v) ∧ v.getLsbD 0 = true)) ∧
    (s.irq = true → t.irq = false →
      Spec.turn s = .reset ∨
        (∃ v, Spec.turn s = .host (.write (s.cfg.base + 0x018) 8 v) ∧ v.getLsbD 1 = true) ∨
        (s.busy = false ∧ ∃ v, Spec.turn s = .host (.write (s.cfg.base + 0x020) 8 v)) ∨
        ∃ v, Spec.turn s = .host (.write (s.cfg.base + 0x010) 8 v) ∧ v.getLsbD 0 = false)

/-- R27: BUSYERR is set by a write discarded because BUSY = 1 (to CMD, a register or a buffer byte j < W) and by nothing
else, and cleared only by a STATUS write with bit 2 or reset (so neither acceptance nor completion changes it). -/
def Obligations.BusyErrSetAndCleared : Prop :=
  (∀ (s : State) (off size : Nat) (v : Word) (d : Slot), s.busy = true → slotOf s.cfg off size = some d →
    (d = .cmd ∨ d.operand = true) → (s.busWrite off size v).busyerr = true) ∧
  ∀ s t : State, step s = .next t →
    (s.busyerr = false → t.busyerr = true →
      s.busy = true ∧ ∃ addr size v d, Spec.turn s = .host (.write addr size v) ∧ inWindow s.cfg addr = true ∧
        slotOf s.cfg (addr - s.cfg.base) size = some d ∧ (d = .cmd ∨ d.operand = true)) ∧
    (s.busyerr = true → t.busyerr = false →
      Spec.turn s = .reset ∨ ∃ v, Spec.turn s = .host (.write (s.cfg.base + 0x018) 8 v) ∧ v.getLsbD 2 = true)

/-- R25: BUSY rises only by the acceptance of a command and falls only by its completion or reset. -/
def Obligations.BusyRisesAndFalls : Prop :=
  ∀ s t : State, step s = .next t →
    (s.busy = false → t.busy = true →
      ∃ v, Spec.turn s = .host (.write (s.cfg.base + 0x020) 8 v) ∧ t.pending = some v) ∧
    (s.busy = true → t.busy = false →
      Spec.turn s = .reset ∨ (Spec.turn s = .engine ∧ s.pending.isSome = true ∧ t.done = true))

/-- R26: DONE rises exactly at a completion, and falls exactly at the acceptance of a command, a STATUS write with bit 1 and
reset. What moves next is the model's queue (log 2). -/
def Obligations.DoneRisesAndFalls : Prop :=
  ∀ s t : State, step s = .next t →
    (s.done = false → (t.done = true ↔ Spec.turn s = .engine ∧ s.pending.isSome = true)) ∧
    (s.done = true → (t.done = false ↔
      Spec.turn s = .reset ∨
        (∃ v, Spec.turn s = .host (.write (s.cfg.base + 0x018) 8 v) ∧ v.getLsbD 1 = true) ∨
        (s.busy = false ∧ ∃ v, Spec.turn s = .host (.write (s.cfg.base + 0x020) 8 v))))

/-- R28: ERR changes only at the acceptance of a command and at reset, where it becomes 0, and at a completion, where it
becomes the command's code: 8 for an illegal command, 0 for ZEROIZE, one of its own codes (R202, which the spec marks
derived) for any other, RSAW's working values being exact (log 10). What moves next is the model's queue (log 2). -/
def Obligations.ErrChanges : Prop :=
  ∀ s t : State, step s = .next t →
    (t.err ≠ s.err →
      Spec.turn s = .reset ∨ (s.busy = false ∧ ∃ v, Spec.turn s = .host (.write (s.cfg.base + 0x020) 8 v)) ∨
        (Spec.turn s = .engine ∧ s.pending.isSome = true)) ∧
    (Spec.turn s = .reset → t.err = 0) ∧
    (∀ v, s.busy = false → Spec.turn s = .host (.write (s.cfg.base + 0x020) 8 v) → t.err = 0) ∧
    ∀ v, Spec.turn s = .engine → s.pending = some v →
      (∀ e, decode v = .error e → t.err = 8) ∧ (decode v = .ok .zeroize → t.err = 0) ∧
        ∀ i, decode v = .ok i → s.PhaseExact → t.err ∈ i.completionCodes

/-- R21: nothing changes a register but a host write to it while idle, a command that names it as a destination and
completes with ERR = 0, ZEROIZE, and reset. -/
def Obligations.OnlyTheseWriteRegisters : Prop :=
  ∀ (s t : State) (r : Reg), step s = .next t → t.reg r ≠ s.reg r →
    Spec.turn s = .reset ∨
      (s.busy = false ∧ ∃ v, Spec.turn s = .host (.write (s.cfg.base + 0x100 + 8 * r.val) 8 v) ∧ t.reg r = v) ∨
      (Spec.turn s = .engine ∧ t.err = 0 ∧ ∃ v i, s.pending = some v ∧ decode v = .ok i ∧ r ∈ i.dests)

/-- R33: nothing changes a buffer byte but a host write to it while idle, RSAW (MBUF only), ZEROIZE and reset. -/
def Obligations.OnlyTheseWriteBuffers : Prop :=
  ∀ (s t : State) (off : Nat), step s = .next t → Memory.read t.mem off ≠ Memory.read s.mem off →
    Spec.turn s = .reset ∨
      (s.busy = false ∧ ∃ v, Spec.turn s = .host (.write (s.cfg.base + off) 1 v)) ∨
      (Spec.turn s = .engine ∧ t.err = 0 ∧ ∃ v i, s.pending = some v ∧ decode v = .ok i ∧ Instr.storesAt s.cfg off i)

/-- R54: a buffer's value is the big-endian sum over its bytes at their window offsets, and an integer written back is its
big-endian digits, left-zero-padded; import and export undo each other. -/
def Obligations.BigEndianImportExport : Prop :=
  (∀ (s : State) (b : Buf), s.bufInt b =
    ∑ j : Fin s.cfg.width, (Memory.read s.mem (b.base + j.val)).toNat * 256 ^ (s.cfg.width - 1 - j.val)) ∧
  (∀ (s : State) (b : Buf), s.bufInt b < 256 ^ s.cfg.width) ∧
  (∀ (s : State) (b : Buf) (v j : Nat), Memory.wf s.mem = true → j < s.cfg.width →
    Memory.read (s.setBuf b (exportInt v s.cfg.width)).mem (b.base + j) =
      BitVec.ofNat 8 (v / 256 ^ (s.cfg.width - 1 - j) % 256)) ∧
  (∀ bytes : List Byte, importInt bytes =
    ∑ j : Fin bytes.length, (bytes[j.val]).toNat * 256 ^ (bytes.length - 1 - j.val)) ∧
  (∀ bytes : List Byte, importInt bytes < 256 ^ bytes.length) ∧
  (∀ v width j : Nat, j < width →
    (exportInt v width)[j]? = some (BitVec.ofNat 8 (v / 256 ^ (width - 1 - j) % 256))) ∧
  (∀ v width : Nat, (exportInt v width).length = width) ∧
  (∀ v width : Nat, v < 256 ^ width → importInt (exportInt v width) = v) ∧
  ∀ bytes : List Byte, exportInt (importInt bytes) bytes.length = bytes

/-! ### The modular engine (40_modarith.md) -/

/-- R104: MADD and MADD.NW. -/
def Obligations.MaddResult : Prop :=
  ∀ (rd ra rb rm : Reg) (s : State),
    exec (.madd rd ra rb rm) s = .next (s.completedWith
      (s.x.set rd.val (BitVec.ofNat 64 (((s.reg ra).toNat + (s.reg rb).toNat) % Spec.modulus (s.reg rm)))) s.mem 0) ∧
    exec (.maddNw rd ra rb) s = .next (s.completedWith
      (s.x.set rd.val (BitVec.ofNat 64 (((s.reg ra).toNat + (s.reg rb).toNat) % 2 ^ 64))) s.mem 0)

/-- R105: MMUL and MMUL.NW. -/
def Obligations.MmulResult : Prop :=
  ∀ (rd ra rb rm : Reg) (s : State),
    exec (.mmul rd ra rb rm) s = .next (s.completedWith
      (s.x.set rd.val (BitVec.ofNat 64 ((s.reg ra).toNat * (s.reg rb).toNat % Spec.modulus (s.reg rm)))) s.mem 0) ∧
    exec (.mmulNw rd ra rb) s = .next (s.completedWith
      (s.x.set rd.val (BitVec.ofNat 64 ((s.reg ra).toNat * (s.reg rb).toNat % 2 ^ 64))) s.mem 0)

/-- R106: MPOW and MPOW.NW: the power over the integers, reduced; the model computes it by square-and-multiply. -/
def Obligations.MpowResult : Prop :=
  ∀ (rd ra rb rm : Reg) (s : State),
    exec (.mpow rd ra rb rm) s = .next (s.completedWith
      (s.x.set rd.val (BitVec.ofNat 64 ((s.reg ra).toNat ^ (s.reg rb).toNat % Spec.modulus (s.reg rm)))) s.mem 0) ∧
    exec (.mpowNw rd ra rb) s = .next (s.completedWith
      (s.x.set rd.val (BitVec.ofNat 64 ((s.reg ra).toNat ^ (s.reg rb).toNat % 2 ^ 64))) s.mem 0)

/-- R84, R100: an explicit modulus of 0 is the native width. -/
def Obligations.ZeroModulusIsNativeWidth : Prop :=
  ∀ (rd ra rb rm : Reg) (s : State), s.reg rm = 0 →
    exec (.madd rd ra rb rm) s = exec (.maddNw rd ra rb) s ∧ exec (.mmul rd ra rb rm) s = exec (.mmulNw rd ra rb) s ∧
      exec (.mpow rd ra rb rm) s = exec (.mpowNw rd ra rb) s

/-- The borrow-checked add of R101 and the double-and-add multiply of R102 compute the two functions (the spec marks this
derived). -/
def Obligations.DatapathsComputeTheFunctions : Prop :=
  ∀ a b m : Word,
    (modAddDatapath a b m).toNat = (a.toNat + b.toNat) % Spec.modulus m ∧
      modMulDatapath a.toNat b.toNat (Spec.modulus m) = a.toNat * b.toNat % Spec.modulus m

/-- Exponents add (40_modarith.md §4, a consequence the spec marks derived). -/
def Obligations.PowerOfSumIsProduct : Prop :=
  ∀ a b c m : Nat, 1 ≤ m → modPow a (b + c) m = modMul (modPow a b m) (modPow a c m) m

/-! ### The number-theory unit (41_numtheory.md) -/

/-- R123: GCD. -/
def Obligations.GcdResult : Prop :=
  ∀ (rd ra rb : Reg) (s : State),
    exec (.gcd rd ra rb) s = .next (s.completedWith
      (s.x.set rd.val (BitVec.ofNat 64 (Nat.gcd (s.reg ra).toNat (s.reg rb).toNat))) s.mem 0)

/-- R124: XGCD writes the result of R121's iteration, run until its second remainder is 0; an rd above 13 is illegal. -/
def Obligations.XgcdResult : Prop :=
  (∀ (rd ra rb : Reg) (s : State), 13 < rd.val → exec (.xgcd rd ra rb) s = .next (s.completedWith s.x s.mem 8)) ∧
  ∀ (rd ra rb : Reg) (s : State), rd.val ≤ 13 →
    ∃ (n : Nat) (t : State),
      (Spec.xgcdAfter (s.reg ra).toNat (s.reg rb).toNat n).r1 = 0 ∧
      (∀ k < n, (Spec.xgcdAfter (s.reg ra).toNat (s.reg rb).toNat k).r1 ≠ 0) ∧
      exec (.xgcd rd ra rb) s = .next t ∧ t = s.completedWith t.x s.mem 0 ∧
      ∀ r : Reg, t.reg r =
        if r.val = rd.val then BitVec.ofInt 64 (Spec.xgcdAfter (s.reg ra).toNat (s.reg rb).toNat n).r0
        else if r.val = rd.val + 1 then BitVec.ofInt 64 (Spec.xgcdAfter (s.reg ra).toNat (s.reg rb).toNat n).s0
        else if r.val = rd.val + 2 then BitVec.ofInt 64 (Spec.xgcdAfter (s.reg ra).toNat (s.reg rb).toNat n).t0
        else s.reg r

/-- R121, and the laws of 41_numtheory.md §3 (R126, which the spec marks derived): d is the greatest common divisor and
a·x + b·y = d; the results for zero operands. -/
def Obligations.XgcdIsBezout : Prop :=
  (∀ a b : Nat, (xgcdInt a b).d = Nat.gcd a b ∧
    (a : Int) * (xgcdInt a b).x + (b : Int) * (xgcdInt a b).y = ((xgcdInt a b).d : Int)) ∧
  (∀ a : Nat, xgcdInt a 0 = ⟨a, 1, 0⟩) ∧ ∀ b : Nat, b ≠ 0 → xgcdInt 0 b = ⟨b, 0, 1⟩

/-- R121 (the bound it takes from general knowledge, G1): on 64-bit operands sint64 of the returned words is the true
coefficient. -/
def Obligations.XgcdCoefficientsRecoverable : Prop :=
  ∀ a b : Word,
    sint64 (trunc64 (xgcdInt a.toNat b.toNat).x) = (xgcdInt a.toNat b.toNat).x ∧
      sint64 (trunc64 (xgcdInt a.toNat b.toNat).y) = (xgcdInt a.toNat b.toNat).y

/-- R125: MINV gives the inverse below m where gcd(a, m) = 1 and 0 (with ERR = 0) otherwise (41_numtheory.md §1, the
"Equivalently" the spec marks derived); m = 0 ends with ZeroModulus and no write. -/
def Obligations.MinvResult : Prop :=
  (∀ (rd ra rm : Reg) (s : State), s.reg rm = 0 → exec (.minv rd ra rm) s = .next (s.completedWith s.x s.mem 10)) ∧
  ∀ (rd ra rm : Reg) (s : State), s.reg rm ≠ 0 →
    ∃ v : Word,
      exec (.minv rd ra rm) s = .next (s.completedWith (s.x.set rd.val v) s.mem 0) ∧
      (Nat.gcd (s.reg ra).toNat (s.reg rm).toNat = 1 →
        v.toNat < (s.reg rm).toNat ∧ (s.reg ra).toNat * v.toNat % (s.reg rm).toNat = 1 % (s.reg rm).toNat) ∧
      (Nat.gcd (s.reg ra).toNat (s.reg rm).toNat ≠ 1 → v = 0)

/-! ### The primality unit (42_primality.md) -/

/-- R144, R141: MRFACT: for n ≠ 1, n − 1 (modulo 2^64) is 2^k · q with q odd; n = 1 is BadOperand; rd = 15 is illegal. -/
def Obligations.MrfactResult : Prop :=
  (∀ (rd rn : Reg) (s : State), 14 < rd.val → exec (.mrfact rd rn) s = .next (s.completedWith s.x s.mem 8)) ∧
  (∀ (rd rn : Reg) (s : State), rd.val ≤ 14 → s.reg rn = 1 →
    exec (.mrfact rd rn) s = .next (s.completedWith s.x s.mem 9)) ∧
  ∀ (rd rn : Reg) (s : State), rd.val ≤ 14 → s.reg rn ≠ 1 →
    ∃ (k q : Nat) (t : State), k ≤ 63 ∧ q % 2 = 1 ∧ (s.reg rn - 1).toNat = 2 ^ k * q ∧
      exec (.mrfact rd rn) s = .next t ∧ t = s.completedWith t.x s.mem 0 ∧
      ∀ r : Reg, t.reg r =
        if r.val = rd.val then BitVec.ofNat 64 k else if r.val = rd.val + 1 then BitVec.ofNat 64 q else s.reg r

/-- R145: MRWIT for k ≤ 63, by the closed form that R142 gives after "Equivalently" and marks derived; k ≥ 64 is
BadOperand. -/
def Obligations.MrwitResult : Prop :=
  (∀ (rd rn ra rk rq : Reg) (s : State), 64 ≤ (s.reg rk).toNat →
    exec (.mrwit rd rn ra rk rq) s = .next (s.completedWith s.x s.mem 9)) ∧
  ∀ (rd rn ra rk rq : Reg) (s : State), (s.reg rk).toNat < 64 →
    ∃ b : Bool,
      (b = true ↔ Spec.Probable (Spec.modulus (s.reg rn)) (s.reg ra).toNat (s.reg rk).toNat (s.reg rq).toNat) ∧
      exec (.mrwit rd rn ra rk rq) s = .next (s.completedWith (s.x.set rd.val (if b then 1 else 0)) s.mem 0)

/-- R146, R143: MRTEST, each base by the closed form that R142 marks derived. -/
def Obligations.MrtestResult : Prop :=
  ∀ (rd rn : Reg) (s : State),
    ∃ b : Bool, (b = true ↔ Spec.Passes (s.reg rn).toNat) ∧
      exec (.mrtest rd rn) s = .next (s.completedWith (s.x.set rd.val (if b then 1 else 0)) s.mem 0)

/-- R147, one direction: MRTEST calls every 64-bit prime PRIME. -/
def Obligations.MrtestAcceptsEveryPrime : Prop :=
  ∀ (rd rn : Reg) (s : State), Nat.Prime (s.reg rn).toNat →
    exec (.mrtest rd rn) s = .next (s.completedWith (s.x.set rd.val 1) s.mem 0)

/-! ### The RSA core (43_rsa.md) -/

/-- R163, R162: RSA64: the power for m ≤ n, OutOfRange for m > n. -/
def Obligations.RsaNarrowResult : Prop :=
  (∀ (rd rm rk rn : Reg) (s : State), (s.reg rn).toNat < (s.reg rm).toNat →
    exec (.rsa64 rd rm rk rn) s = .next (s.completedWith s.x s.mem 3)) ∧
  ∀ (rd rm rk rn : Reg) (s : State), (s.reg rm).toNat ≤ (s.reg rn).toNat →
    exec (.rsa64 rd rm rk rn) s = .next (s.completedWith
      (s.x.set rd.val (BitVec.ofNat 64 ((s.reg rm).toNat ^ (s.reg rk).toNat % Spec.modulus (s.reg rn)))) s.mem 0)

/-- R166, a law the spec takes from general knowledge (G3): decrypting what RSA64 encrypted gives the message back, under the
conditions of the law. The second command runs in any state that holds the cipher text and the key in any registers, so the
first may also have overwritten them. -/
def Obligations.RsaNarrowRoundTrip : Prop :=
  ∀ (rc rm re rn : Reg) (s : State) (p q d : Nat), Nat.Prime p → Nat.Prime q → p ≠ q →
    (s.reg rn).toNat = p * q → (s.reg rm).toNat < p * q →
    (s.reg re).toNat * d ≡ 1 [MOD Nat.lcm (p - 1) (q - 1)] →
    ∃ t, exec (.rsa64 rc rm re rn) s = .next t ∧ t.err = 0 ∧
      ∀ (rp ra rd rk : Reg) (t' : State), t'.reg ra = t.reg rc → (t'.reg rd).toNat = d → t'.reg rk = s.reg rn →
        ∃ u, exec (.rsa64 rp ra rd rk) t' = .next u ∧ u.err = 0 ∧ u.reg rp = s.reg rm

/-- R164: RSAW, started afresh, with every reply ok and M < N: MBUF becomes the big-endian M^K mod N, and nothing else. -/
def Obligations.RsawResult : Prop :=
  ∀ s : State, s.rsaw = .idle → s.bigReq = none → Memory.wf s.mem = true → (∀ i < 6, s.replyAt i = true) →
    s.bufInt .m < s.bufInt .n →
    ∃ mem' replies' draws',
      exec .rsaw s = .next { s.completedWith s.x mem' 0 with replies := replies', draws := draws' } ∧
      (∀ j < s.cfg.width, Memory.read mem' (0x10000 + j) =
        BitVec.ofNat 8 (s.bufInt .m ^ s.bufInt .k % s.bufInt .n / 256 ^ (s.cfg.width - 1 - j))) ∧
      ∀ off, (off < 0x10000 ∨ 0x10000 + s.cfg.width ≤ off) → Memory.read mem' off = Memory.read s.mem off

/-- R164, R205: RSAW, started afresh: OutOfRange when the replies before the comparison's are ok and M ≥ N; CollabFail at the
first fail reply to a request that is sent. -/
def Obligations.RsawErrors : Prop :=
  ∀ s : State, s.rsaw = .idle → s.bigReq = none →
    ((∀ i < 4, s.replyAt i = true) → s.bufInt .n ≤ s.bufInt .m →
      ∃ replies' draws', exec .rsaw s = .next { s.completedWith s.x s.mem 3 with replies := replies', draws := draws' }) ∧
    ∀ i < 6, (∀ k < i, s.replyAt k = true) → s.replyAt i = false → (i < 4 ∨ s.bufInt .m < s.bufInt .n) →
      ∃ replies' draws', exec .rsaw s = .next { s.completedWith s.x s.mem 11 with replies := replies', draws := draws' }

/-- R160, R164: RSAW run request by request, with any number of port and collaborator turns before the engine completes it,
ends as RSAW in one step does. The schedule, the draws and the working values are the model's (log 2, log 4, log 10). -/
def Obligations.RsawByRequestsIsRsaw : Prop :=
  ∀ (s : State) (n : Nat) (rest : List Input), s.rsawInFlight = true →
    s.inputs = Spec.portSchedule n ++ .engine :: rest →
    Host.Core.run core (2 * n + 1) s = exec .rsaw { s with inputs := rest }

/-- R164, R205: from any reachable progress of an RSAW, however many requests are answered and whatever host accesses came
between, its completion is right: CollabFail exactly where a request that is sent gets a fail reply, else OutOfRange exactly
where M ≥ N, else the result. The working values and the draws are the model's (log 10, log 4). -/
def Obligations.RsawCompletesRightFromAnyProgress : Prop :=
  ∀ s t : State, s.Inv → s.rsawInFlight = true → engineTurn s = .next t →
    (t.err = 0 ∧ ¬ Spec.ReplyFails s ∧ s.bufInt .m < s.bufInt .n ∧
      (∀ j < s.cfg.width, t.bufByte .m j =
        BitVec.ofNat 8 (s.bufInt .m ^ s.bufInt .k % s.bufInt .n / 256 ^ (s.cfg.width - 1 - j))) ∧
      ∀ j < s.cfg.width, t.bufByte .k j = s.bufByte .k j ∧ t.bufByte .n j = s.bufByte .n j) ∨
    (t.err = 3 ∧ ¬ Spec.ReplyFails s ∧ s.bufInt .n ≤ s.bufInt .m ∧ t.mem = s.mem) ∨
    (t.err = 11 ∧ Spec.ReplyFails s ∧ t.mem = s.mem)

/-! ### ZEROIZE and reset (44_system.md R184; 70_reset_and_hazards.md) -/

/-- R184: ZEROIZE. -/
def Obligations.ZeroizeResult : Prop :=
  ∀ s : State, s.cfg.Legal →
    ∃ mem', exec .zeroize s = .next (s.completedWith (Vector.replicate 16 0) mem' 0) ∧
      (∀ (b : Buf) (j : Nat), j < s.cfg.width → Memory.read mem' (b.base + j) = 0) ∧
      ∀ off, bufferOffset s.cfg off = false → Memory.read mem' off = Memory.read s.mem off

/-- R184: after ZEROIZE nothing depends on what the registers and buffers held. -/
def Obligations.ZeroizeErasesOperands : Prop :=
  ∀ (s : State) (x' : Vector Word 16) (mem' : Memory), (∀ c ∈ s.mem, bufferOffset s.cfg c.1 = true) →
    (∀ c ∈ mem', bufferOffset s.cfg c.1 = true) →
    exec .zeroize { s with x := x', mem := mem' } = exec .zeroize s

/-- R230, R231: reset, from any state, a command in flight included; a late reply of the collaborator changes nothing. That
the model's own queue of inputs stays is its choice (log 11; the queue is log 2). -/
def Obligations.ResetFromAnyState : Prop :=
  ∀ (s : State) (rest : List Input), s.inputs = .reset :: rest →
    ∃ t, step s = .next t ∧ (∀ r : Reg, t.reg r = 0) ∧ (∀ off, Memory.read t.mem off = 0) ∧ t.statusWord = 0 ∧
      t.ctrlWord = 0 ∧ t.cmdReadback = 0 ∧ t.pending = none ∧ t.bigReq = none ∧ t.rsaw = .idle ∧ t.irq = false ∧
      t.cfg = s.cfg ∧ t.inputs = rest ∧ t.collabTurn = t

/-! ### The invariant -/

/-- R38 and the rules named in State.Inv: every step keeps the invariant. -/
def Obligations.StepKeepsInvariant : Prop :=
  ∀ s t : State, s.Inv → step s = .next t → t.Inv

/-- R38, R230: the invariant holds after reset of every build R6 allows. -/
def Obligations.ResetMeetsInvariant : Prop :=
  ∀ c : Config, c.Legal → (State.resetWith c).Inv
end

