-- ==== Sys2Proof/Laws/State.lean ====
section
/-! SUPPORT. What each update of the state does to each field, so that no later proof unfolds a record update. -/

namespace Sys2Proof.Machine

section setRegFields
variable (s : State) (r : Reg) (v : Word)

@[simp] theorem State.setReg_cfg : (s.setReg r v).cfg = s.cfg := rfl
@[simp] theorem State.setReg_x : (s.setReg r v).x = s.x.set r.val v := rfl
@[simp] theorem State.setReg_mem : (s.setReg r v).mem = s.mem := rfl
@[simp] theorem State.setReg_busy : (s.setReg r v).busy = s.busy := rfl
@[simp] theorem State.setReg_done : (s.setReg r v).done = s.done := rfl
@[simp] theorem State.setReg_busyerr : (s.setReg r v).busyerr = s.busyerr := rfl
@[simp] theorem State.setReg_err : (s.setReg r v).err = s.err := rfl
@[simp] theorem State.setReg_ie : (s.setReg r v).ie = s.ie := rfl
@[simp] theorem State.setReg_cmd : (s.setReg r v).cmd = s.cmd := rfl
@[simp] theorem State.setReg_pending : (s.setReg r v).pending = s.pending := rfl
@[simp] theorem State.setReg_bigReq : (s.setReg r v).bigReq = s.bigReq := rfl
@[simp] theorem State.setReg_rsaw : (s.setReg r v).rsaw = s.rsaw := rfl
@[simp] theorem State.setReg_inputs : (s.setReg r v).inputs = s.inputs := rfl
@[simp] theorem State.setReg_replies : (s.setReg r v).replies = s.replies := rfl
@[simp] theorem State.setReg_draws : (s.setReg r v).draws = s.draws := rfl
@[simp] theorem State.setReg_resp : (s.setReg r v).resp = s.resp := rfl

end setRegFields

section setBufByteFields
variable (s : State) (b : Buf) (j : Nat) (v : Byte)

@[simp] theorem State.setBufByte_cfg : (s.setBufByte b j v).cfg = s.cfg := rfl
@[simp] theorem State.setBufByte_x : (s.setBufByte b j v).x = s.x := rfl
@[simp] theorem State.setBufByte_mem : (s.setBufByte b j v).mem = Memory.write s.mem (b.base + j) v := rfl
@[simp] theorem State.setBufByte_busy : (s.setBufByte b j v).busy = s.busy := rfl
@[simp] theorem State.setBufByte_done : (s.setBufByte b j v).done = s.done := rfl
@[simp] theorem State.setBufByte_busyerr : (s.setBufByte b j v).busyerr = s.busyerr := rfl
@[simp] theorem State.setBufByte_err : (s.setBufByte b j v).err = s.err := rfl
@[simp] theorem State.setBufByte_ie : (s.setBufByte b j v).ie = s.ie := rfl
@[simp] theorem State.setBufByte_cmd : (s.setBufByte b j v).cmd = s.cmd := rfl
@[simp] theorem State.setBufByte_pending : (s.setBufByte b j v).pending = s.pending := rfl
@[simp] theorem State.setBufByte_bigReq : (s.setBufByte b j v).bigReq = s.bigReq := rfl
@[simp] theorem State.setBufByte_rsaw : (s.setBufByte b j v).rsaw = s.rsaw := rfl
@[simp] theorem State.setBufByte_inputs : (s.setBufByte b j v).inputs = s.inputs := rfl
@[simp] theorem State.setBufByte_replies : (s.setBufByte b j v).replies = s.replies := rfl
@[simp] theorem State.setBufByte_draws : (s.setBufByte b j v).draws = s.draws := rfl
@[simp] theorem State.setBufByte_resp : (s.setBufByte b j v).resp = s.resp := rfl

end setBufByteFields

section setBufFields
variable (s : State) (b : Buf) (bytes : List Byte)

@[simp] theorem State.setBuf_cfg : (s.setBuf b bytes).cfg = s.cfg := rfl
@[simp] theorem State.setBuf_x : (s.setBuf b bytes).x = s.x := rfl
@[simp] theorem State.setBuf_mem : (s.setBuf b bytes).mem = Memory.writeList s.mem b.base (bytes.take s.cfg.width) := rfl
@[simp] theorem State.setBuf_busy : (s.setBuf b bytes).busy = s.busy := rfl
@[simp] theorem State.setBuf_done : (s.setBuf b bytes).done = s.done := rfl
@[simp] theorem State.setBuf_busyerr : (s.setBuf b bytes).busyerr = s.busyerr := rfl
@[simp] theorem State.setBuf_err : (s.setBuf b bytes).err = s.err := rfl
@[simp] theorem State.setBuf_ie : (s.setBuf b bytes).ie = s.ie := rfl
@[simp] theorem State.setBuf_cmd : (s.setBuf b bytes).cmd = s.cmd := rfl
@[simp] theorem State.setBuf_pending : (s.setBuf b bytes).pending = s.pending := rfl
@[simp] theorem State.setBuf_bigReq : (s.setBuf b bytes).bigReq = s.bigReq := rfl
@[simp] theorem State.setBuf_rsaw : (s.setBuf b bytes).rsaw = s.rsaw := rfl
@[simp] theorem State.setBuf_inputs : (s.setBuf b bytes).inputs = s.inputs := rfl
@[simp] theorem State.setBuf_replies : (s.setBuf b bytes).replies = s.replies := rfl
@[simp] theorem State.setBuf_draws : (s.setBuf b bytes).draws = s.draws := rfl
@[simp] theorem State.setBuf_resp : (s.setBuf b bytes).resp = s.resp := rfl

end setBufFields

section acceptFields
variable (s : State) (v : Word)

@[simp] theorem State.accept_cfg : (s.accept v).cfg = s.cfg := rfl
@[simp] theorem State.accept_x : (s.accept v).x = s.x := rfl
@[simp] theorem State.accept_mem : (s.accept v).mem = s.mem := rfl
@[simp] theorem State.accept_busy : (s.accept v).busy = true := rfl
@[simp] theorem State.accept_done : (s.accept v).done = false := rfl
@[simp] theorem State.accept_busyerr : (s.accept v).busyerr = s.busyerr := rfl
@[simp] theorem State.accept_err : (s.accept v).err = 0 := rfl
@[simp] theorem State.accept_ie : (s.accept v).ie = s.ie := rfl
@[simp] theorem State.accept_cmd : (s.accept v).cmd = v.setWidth 32 := rfl
@[simp] theorem State.accept_pending : (s.accept v).pending = some v := rfl
@[simp] theorem State.accept_bigReq : (s.accept v).bigReq = s.bigReq := rfl
@[simp] theorem State.accept_rsaw : (s.accept v).rsaw = s.rsaw := rfl
@[simp] theorem State.accept_inputs : (s.accept v).inputs = s.inputs := rfl
@[simp] theorem State.accept_replies : (s.accept v).replies = s.replies := rfl
@[simp] theorem State.accept_draws : (s.accept v).draws = s.draws := rfl
@[simp] theorem State.accept_resp : (s.accept v).resp = s.resp := rfl

end acceptFields

section finishFields
variable (s : State) (c : ErrCode)

@[simp] theorem State.finish_cfg : (s.finish c).cfg = s.cfg := rfl
@[simp] theorem State.finish_x : (s.finish c).x = s.x := rfl
@[simp] theorem State.finish_mem : (s.finish c).mem = s.mem := rfl
@[simp] theorem State.finish_busy : (s.finish c).busy = false := rfl
@[simp] theorem State.finish_done : (s.finish c).done = true := rfl
@[simp] theorem State.finish_busyerr : (s.finish c).busyerr = s.busyerr := rfl
@[simp] theorem State.finish_err : (s.finish c).err = c.code := rfl
@[simp] theorem State.finish_ie : (s.finish c).ie = s.ie := rfl
@[simp] theorem State.finish_cmd : (s.finish c).cmd = s.cmd := rfl
@[simp] theorem State.finish_pending : (s.finish c).pending = none := rfl
@[simp] theorem State.finish_bigReq : (s.finish c).bigReq = none := rfl
@[simp] theorem State.finish_rsaw : (s.finish c).rsaw = .idle := rfl
@[simp] theorem State.finish_inputs : (s.finish c).inputs = s.inputs := rfl
@[simp] theorem State.finish_replies : (s.finish c).replies = s.replies := rfl
@[simp] theorem State.finish_draws : (s.finish c).draws = s.draws := rfl
@[simp] theorem State.finish_resp : (s.finish c).resp = s.resp := rfl

end finishFields

section drawnFields
variable (s : State)

@[simp] theorem State.drawn_cfg : (s.drawn).cfg = s.cfg := rfl
@[simp] theorem State.drawn_x : (s.drawn).x = s.x := rfl
@[simp] theorem State.drawn_mem : (s.drawn).mem = s.mem := rfl
@[simp] theorem State.drawn_busy : (s.drawn).busy = s.busy := rfl
@[simp] theorem State.drawn_done : (s.drawn).done = s.done := rfl
@[simp] theorem State.drawn_busyerr : (s.drawn).busyerr = s.busyerr := rfl
@[simp] theorem State.drawn_err : (s.drawn).err = s.err := rfl
@[simp] theorem State.drawn_ie : (s.drawn).ie = s.ie := rfl
@[simp] theorem State.drawn_cmd : (s.drawn).cmd = s.cmd := rfl
@[simp] theorem State.drawn_pending : (s.drawn).pending = s.pending := rfl
@[simp] theorem State.drawn_bigReq : (s.drawn).bigReq = s.bigReq := rfl
@[simp] theorem State.drawn_rsaw : (s.drawn).rsaw = s.rsaw := rfl
@[simp] theorem State.drawn_inputs : (s.drawn).inputs = s.inputs := rfl
@[simp] theorem State.drawn_replies : (s.drawn).replies = s.replies := rfl
@[simp] theorem State.drawn_draws : (s.drawn).draws = s.draws + 1 := rfl
@[simp] theorem State.drawn_resp : (s.drawn).resp = s.resp := rfl

end drawnFields

section writeCtrlFields
variable (s : State) (v : Word)

@[simp] theorem State.writeCtrl_cfg : (s.writeCtrl v).cfg = s.cfg := rfl
@[simp] theorem State.writeCtrl_x : (s.writeCtrl v).x = s.x := rfl
@[simp] theorem State.writeCtrl_mem : (s.writeCtrl v).mem = s.mem := rfl
@[simp] theorem State.writeCtrl_busy : (s.writeCtrl v).busy = s.busy := rfl
@[simp] theorem State.writeCtrl_done : (s.writeCtrl v).done = s.done := rfl
@[simp] theorem State.writeCtrl_busyerr : (s.writeCtrl v).busyerr = s.busyerr := rfl
@[simp] theorem State.writeCtrl_err : (s.writeCtrl v).err = s.err := rfl
@[simp] theorem State.writeCtrl_ie : (s.writeCtrl v).ie = v.getLsbD 0 := rfl
@[simp] theorem State.writeCtrl_cmd : (s.writeCtrl v).cmd = s.cmd := rfl
@[simp] theorem State.writeCtrl_pending : (s.writeCtrl v).pending = s.pending := rfl
@[simp] theorem State.writeCtrl_bigReq : (s.writeCtrl v).bigReq = s.bigReq := rfl
@[simp] theorem State.writeCtrl_rsaw : (s.writeCtrl v).rsaw = s.rsaw := rfl
@[simp] theorem State.writeCtrl_inputs : (s.writeCtrl v).inputs = s.inputs := rfl
@[simp] theorem State.writeCtrl_replies : (s.writeCtrl v).replies = s.replies := rfl
@[simp] theorem State.writeCtrl_draws : (s.writeCtrl v).draws = s.draws := rfl
@[simp] theorem State.writeCtrl_resp : (s.writeCtrl v).resp = s.resp := rfl

end writeCtrlFields

section writeStatusFields
variable (s : State) (v : Word)

@[simp] theorem State.writeStatus_cfg : (s.writeStatus v).cfg = s.cfg := rfl
@[simp] theorem State.writeStatus_x : (s.writeStatus v).x = s.x := rfl
@[simp] theorem State.writeStatus_mem : (s.writeStatus v).mem = s.mem := rfl
@[simp] theorem State.writeStatus_busy : (s.writeStatus v).busy = s.busy := rfl
@[simp] theorem State.writeStatus_done : (s.writeStatus v).done = (s.done && !v.getLsbD 1) := rfl
@[simp] theorem State.writeStatus_busyerr : (s.writeStatus v).busyerr = (s.busyerr && !v.getLsbD 2) := rfl
@[simp] theorem State.writeStatus_err : (s.writeStatus v).err = s.err := rfl
@[simp] theorem State.writeStatus_ie : (s.writeStatus v).ie = s.ie := rfl
@[simp] theorem State.writeStatus_cmd : (s.writeStatus v).cmd = s.cmd := rfl
@[simp] theorem State.writeStatus_pending : (s.writeStatus v).pending = s.pending := rfl
@[simp] theorem State.writeStatus_bigReq : (s.writeStatus v).bigReq = s.bigReq := rfl
@[simp] theorem State.writeStatus_rsaw : (s.writeStatus v).rsaw = s.rsaw := rfl
@[simp] theorem State.writeStatus_inputs : (s.writeStatus v).inputs = s.inputs := rfl
@[simp] theorem State.writeStatus_replies : (s.writeStatus v).replies = s.replies := rfl
@[simp] theorem State.writeStatus_draws : (s.writeStatus v).draws = s.draws := rfl
@[simp] theorem State.writeStatus_resp : (s.writeStatus v).resp = s.resp := rfl

end writeStatusFields

section discardWriteFields
variable (s : State)

@[simp] theorem State.discardWrite_cfg : (s.discardWrite).cfg = s.cfg := rfl
@[simp] theorem State.discardWrite_x : (s.discardWrite).x = s.x := rfl
@[simp] theorem State.discardWrite_mem : (s.discardWrite).mem = s.mem := rfl
@[simp] theorem State.discardWrite_busy : (s.discardWrite).busy = s.busy := rfl
@[simp] theorem State.discardWrite_done : (s.discardWrite).done = s.done := rfl
@[simp] theorem State.discardWrite_busyerr : (s.discardWrite).busyerr = true := rfl
@[simp] theorem State.discardWrite_err : (s.discardWrite).err = s.err := rfl
@[simp] theorem State.discardWrite_ie : (s.discardWrite).ie = s.ie := rfl
@[simp] theorem State.discardWrite_cmd : (s.discardWrite).cmd = s.cmd := rfl
@[simp] theorem State.discardWrite_pending : (s.discardWrite).pending = s.pending := rfl
@[simp] theorem State.discardWrite_bigReq : (s.discardWrite).bigReq = s.bigReq := rfl
@[simp] theorem State.discardWrite_rsaw : (s.discardWrite).rsaw = s.rsaw := rfl
@[simp] theorem State.discardWrite_inputs : (s.discardWrite).inputs = s.inputs := rfl
@[simp] theorem State.discardWrite_replies : (s.discardWrite).replies = s.replies := rfl
@[simp] theorem State.discardWrite_draws : (s.discardWrite).draws = s.draws := rfl
@[simp] theorem State.discardWrite_resp : (s.discardWrite).resp = s.resp := rfl

end discardWriteFields

section zeroedFields
variable (s : State)

@[simp] theorem State.zeroed_cfg : (s.zeroed).cfg = s.cfg := rfl
@[simp] theorem State.zeroed_x : (s.zeroed).x = Vector.replicate 16 0 := rfl
@[simp] theorem State.zeroed_mem : (s.zeroed).mem = s.mem.filter (fun c => !bufferOffset s.cfg c.1) := rfl
@[simp] theorem State.zeroed_busy : (s.zeroed).busy = s.busy := rfl
@[simp] theorem State.zeroed_done : (s.zeroed).done = s.done := rfl
@[simp] theorem State.zeroed_busyerr : (s.zeroed).busyerr = s.busyerr := rfl
@[simp] theorem State.zeroed_err : (s.zeroed).err = s.err := rfl
@[simp] theorem State.zeroed_ie : (s.zeroed).ie = s.ie := rfl
@[simp] theorem State.zeroed_cmd : (s.zeroed).cmd = s.cmd := rfl
@[simp] theorem State.zeroed_pending : (s.zeroed).pending = s.pending := rfl
@[simp] theorem State.zeroed_bigReq : (s.zeroed).bigReq = s.bigReq := rfl
@[simp] theorem State.zeroed_rsaw : (s.zeroed).rsaw = s.rsaw := rfl
@[simp] theorem State.zeroed_inputs : (s.zeroed).inputs = s.inputs := rfl
@[simp] theorem State.zeroed_replies : (s.zeroed).replies = s.replies := rfl
@[simp] theorem State.zeroed_draws : (s.zeroed).draws = s.draws := rfl
@[simp] theorem State.zeroed_resp : (s.zeroed).resp = s.resp := rfl

end zeroedFields

section resetInputFields
variable (s : State)

@[simp] theorem State.resetInput_cfg : (s.resetInput).cfg = s.cfg := rfl
@[simp] theorem State.resetInput_x : (s.resetInput).x = Vector.replicate 16 0 := rfl
@[simp] theorem State.resetInput_mem : (s.resetInput).mem = [] := rfl
@[simp] theorem State.resetInput_busy : (s.resetInput).busy = false := rfl
@[simp] theorem State.resetInput_done : (s.resetInput).done = false := rfl
@[simp] theorem State.resetInput_busyerr : (s.resetInput).busyerr = false := rfl
@[simp] theorem State.resetInput_err : (s.resetInput).err = 0 := rfl
@[simp] theorem State.resetInput_ie : (s.resetInput).ie = false := rfl
@[simp] theorem State.resetInput_cmd : (s.resetInput).cmd = 0 := rfl
@[simp] theorem State.resetInput_pending : (s.resetInput).pending = none := rfl
@[simp] theorem State.resetInput_bigReq : (s.resetInput).bigReq = none := rfl
@[simp] theorem State.resetInput_rsaw : (s.resetInput).rsaw = .idle := rfl
@[simp] theorem State.resetInput_inputs : (s.resetInput).inputs = s.inputs := rfl
@[simp] theorem State.resetInput_replies : (s.resetInput).replies = s.replies := rfl
@[simp] theorem State.resetInput_draws : (s.resetInput).draws = s.draws := rfl
@[simp] theorem State.resetInput_resp : (s.resetInput).resp = .none := rfl

end resetInputFields

section completedWithFields
variable (s : State) (x' : Vector Word 16) (m' : Memory) (e : BitVec 8)

@[simp] theorem State.completedWith_cfg : (s.completedWith x' m' e).cfg = s.cfg := rfl
@[simp] theorem State.completedWith_x : (s.completedWith x' m' e).x = x' := rfl
@[simp] theorem State.completedWith_mem : (s.completedWith x' m' e).mem = m' := rfl
@[simp] theorem State.completedWith_busy : (s.completedWith x' m' e).busy = false := rfl
@[simp] theorem State.completedWith_done : (s.completedWith x' m' e).done = true := rfl
@[simp] theorem State.completedWith_busyerr : (s.completedWith x' m' e).busyerr = s.busyerr := rfl
@[simp] theorem State.completedWith_err : (s.completedWith x' m' e).err = e := rfl
@[simp] theorem State.completedWith_ie : (s.completedWith x' m' e).ie = s.ie := rfl
@[simp] theorem State.completedWith_cmd : (s.completedWith x' m' e).cmd = s.cmd := rfl
@[simp] theorem State.completedWith_pending : (s.completedWith x' m' e).pending = none := rfl
@[simp] theorem State.completedWith_bigReq : (s.completedWith x' m' e).bigReq = none := rfl
@[simp] theorem State.completedWith_rsaw : (s.completedWith x' m' e).rsaw = .idle := rfl
@[simp] theorem State.completedWith_inputs : (s.completedWith x' m' e).inputs = s.inputs := rfl
@[simp] theorem State.completedWith_replies : (s.completedWith x' m' e).replies = s.replies := rfl
@[simp] theorem State.completedWith_draws : (s.completedWith x' m' e).draws = s.draws := rfl
@[simp] theorem State.completedWith_resp : (s.completedWith x' m' e).resp = s.resp := rfl

end completedWithFields

section maeStateFields
variable (s : State)

@[simp] theorem State.maeState_cfg : s.maeState.cfg = s.cfg := rfl
@[simp] theorem State.maeState_x : s.maeState.x = s.x := rfl
@[simp] theorem State.maeState_mem : s.maeState.mem = s.mem := rfl
@[simp] theorem State.maeState_busy : s.maeState.busy = s.busy := rfl
@[simp] theorem State.maeState_done : s.maeState.done = s.done := rfl
@[simp] theorem State.maeState_busyerr : s.maeState.busyerr = s.busyerr := rfl
@[simp] theorem State.maeState_err : s.maeState.err = s.err := rfl
@[simp] theorem State.maeState_ie : s.maeState.ie = s.ie := rfl
@[simp] theorem State.maeState_cmd : s.maeState.cmd = s.cmd := rfl
@[simp] theorem State.maeState_pending : s.maeState.pending = s.pending := rfl
@[simp] theorem State.maeState_bigReq : s.maeState.bigReq = s.bigReq := rfl
@[simp] theorem State.maeState_rsaw : s.maeState.rsaw = s.rsaw := rfl
@[simp] theorem State.maeState_inputs : s.maeState.inputs = [] := rfl
@[simp] theorem State.maeState_replies : s.maeState.replies = [] := rfl
@[simp] theorem State.maeState_draws : s.maeState.draws = 0 := rfl
@[simp] theorem State.maeState_resp : s.maeState.resp = .none := rfl

end maeStateFields

/-- complete and raise are the one completion update (R181). -/
@[simp] theorem State.complete_eq_finish (s : State) : s.complete = s.finish .none := rfl

@[simp] theorem State.raise_eq_finish (s : State) (c : ErrCode) : s.raise c = s.finish c := rfl

@[simp] theorem State.completeReg_eq_finish (s : State) (r : Reg) (v : Word) :
    s.completeReg r v = (s.setReg r v).finish .none := rfl

/-- The completion update in the statements' words. -/
theorem State.finish_eq_completedWith (s : State) (c : ErrCode) : s.finish c = s.completedWith s.x s.mem c.code := rfl

theorem State.completeReg_eq_completedWith (s : State) (r : Reg) (v : Word) :
    s.completeReg r v = s.completedWith (s.x.set r.val v) s.mem 0 := rfl

/-- Reading a register after a write. -/
theorem State.reg_setReg (s : State) (r r' : Reg) (v : Word) :
    (s.setReg r v).reg r' = if r' = r then v else s.reg r' := by
  simp only [State.reg, State.setReg_x, Vector.getElem_set, Fin.ext_iff, eq_comm]

@[simp] theorem State.reg_setReg_self (s : State) (r : Reg) (v : Word) : (s.setReg r v).reg r = v := by
  simp [State.reg_setReg]

theorem State.reg_setReg_of_ne (s : State) (r r' : Reg) (v : Word) (h : r' ≠ r) : (s.setReg r v).reg r' = s.reg r' := by
  simp [State.reg_setReg, h]

@[simp] theorem State.reg_finish (s : State) (c : ErrCode) (r : Reg) : (s.finish c).reg r = s.reg r := rfl

@[simp] theorem State.reg_zeroed (s : State) (r : Reg) : s.zeroed.reg r = 0 := by
  simp [State.reg]

/-- Using up a draw changes the model's own queue and counter only. -/
theorem State.dropReply_eq (s : State) :
    s.dropReply = { s with replies := s.dropReply.replies, draws := s.dropReply.draws } := by
  unfold State.dropReply
  split <;> rfl

/-- The draw after one is used up is the next one. -/
theorem State.replyAt_dropReply (s : State) (i : Nat) : s.dropReply.replyAt i = s.replyAt (i + 1) := by
  unfold State.replyAt State.dropReply
  cases s.replies with
  | nil =>
    simp only [List.length_nil, List.getElem?_nil]
    congr 1
    omega
  | cons b rest =>
    simp only [List.getElem?_cons_succ, List.length_cons]
    split <;> [rfl; (congr 1; omega)]

end Sys2Proof.Machine
end

