-- ==== Sys2Proof/Laws/Bus.lean ====
section
/-! SUPPORT. Which slot an access reaches, and what an access can do (20_memory.md R51 to R58). -/

namespace Sys2Proof.Machine

/-- The access sizes R52 and R53 allow. -/
theorem slotOf_eq_none_iff (c : Config) (off size : Nat) :
    slotOf c off size = none ↔ ¬ ((off < 0x10000 ∧ size = 8 ∧ off % 8 = 0) ∨ (0x10000 ≤ off ∧ size = 1)) := by
  unfold slotOf
  split
  · split <;> simp <;> omega
  · split
    · split <;> simp <;> omega
    · simp; omega

/-- Register Ri stands at 0x100 + 8·i (R20). -/
theorem pageSlot_reg (r : Reg) : pageSlot (0x100 + 8 * r.val) = .reg r := by
  fin_cases r <;> rfl

/-- CTRL, STATUS and CMD stand at one offset each (R51), reached by an 8-byte access (R52). -/
theorem slotOf_control {c : Config} {off size : Nat} {t : Slot} (h : slotOf c off size = some t) :
    (t = .ctrl → off = 0x010 ∧ size = 8) ∧ (t = .status → off = 0x018 ∧ size = 8) ∧ (t = .cmd → off = 0x020 ∧ size = 8) := by
  unfold slotOf at h
  split at h
  · split at h
    · rename_i hs
      injection h with h
      subst h
      unfold pageSlot
      split <;> first | (split <;> simp) | simp [hs.1]
    · simp at h
  · split at h
    · split at h <;> (injection h with h; subst h; simp)
    · simp at h

/-- Buffer byte j stands at its region's base + j (R33). -/
theorem slotOf_byte (c : Config) (b : Buf) (j : Nat) (hj : j < c.width) (hl : j < 0x10000) :
    slotOf c (b.base + j) 1 = some (.byte b j) := by
  have hm : (b.base + j) % 0x10000 = j := by cases b <;> simp only [Buf.base] <;> omega
  have hq : (b.base + j) / 0x10000 = b.base / 0x10000 := by cases b <;> simp only [Buf.base] <;> omega
  have hd : regionBuf ((b.base + j) / 0x10000) = b := by
    rw [hq]
    cases b <;> rfl
  have hb : ¬ b.base + j < 0x10000 := by cases b <;> simp only [Buf.base] <;> omega
  rw [slotOf, if_neg hb, if_pos rfl, hm, hd, if_pos hj]

/-- What a read can do: the response, and one free value used up (R58). -/
theorem State.busRead_cases (s : State) (off size : Nat) :
    (s.busRead off size = { s with resp := .busError }) ∨
      ∃ t, slotOf s.cfg off size = some t ∧
        (s.busRead off size = { s with resp := .readOkay (s.readSlot t) } ∨
          s.busRead off size = { s.drawn with resp := .readOkay (s.readSlot t) }) := by
  unfold State.busRead
  split
  · rename_i t h
    refine .inr ⟨t, h, ?_⟩
    unfold State.afterRead
    split
    · exact .inr rfl
    · exact .inl rfl
  · exact .inl rfl

/-- What a write can do: nothing, one of the five effects of R52 and R53, or a discard (R57). -/
theorem State.writeSlot_cases (s : State) (v : Word) (t : Slot) :
    s.writeSlot v t = s ∨ (t = .ctrl ∧ s.writeSlot v t = s.writeCtrl v) ∨ (t = .status ∧ s.writeSlot v t = s.writeStatus v) ∨
      (s.busy = true ∧ (t = .cmd ∨ t.operand = true) ∧ s.writeSlot v t = s.discardWrite) ∨
      (s.busy = false ∧ t = .cmd ∧ s.writeSlot v t = s.accept v) ∨
      (s.busy = false ∧ ∃ r, t = .reg r ∧ s.writeSlot v t = s.setReg r v) ∨
      (s.busy = false ∧ ∃ b j, t = .byte b j ∧ s.writeSlot v t = s.setBufByte b j (v.setWidth 8)) := by
  cases t <;> cases h : s.busy <;> simp [State.writeSlot, Slot.operand, h]

/-- What a write access does to the state. -/
theorem State.busWrite_cases (s : State) (off size : Nat) (v : Word) :
    (s.busWrite off size v = { s with resp := .busError }) ∨
      ∃ t, slotOf s.cfg off size = some t ∧ s.busWrite off size v = { s.writeSlot v t with resp := .writeOkay } := by
  unfold State.busWrite
  split
  · exact .inr ⟨_, by assumption, rfl⟩
  · exact .inl rfl

/-- What a host access can answer: a fault outside the window, else a bus read or write at the offset. -/
theorem hostAccess_next {a : Access} {s t : State} (h : hostAccess a s = .next t) :
    inWindow s.cfg a.addr = true ∧
      ((∃ addr size, a = .read addr size ∧ t = s.busRead (addr - s.cfg.base) size) ∨
        ∃ addr size v, a = .write addr size v ∧ t = s.busWrite (addr - s.cfg.base) size v) := by
  unfold hostAccess at h
  split at h
  · rename_i hw
    refine ⟨hw, ?_⟩
    cases a with
    | read addr size =>
      injection h with h
      exact .inl ⟨addr, size, rfl, h.symm⟩
    | write addr size v =>
      injection h with h
      exact .inr ⟨addr, size, v, rfl, h.symm⟩
  · simp at h

/-- Everything a host access can do to the state: nothing but the response and a free value used up, a CTRL, STATUS or CMD
write, a register or buffer write while idle, or a write discarded because BUSY = 1. -/
theorem hostAccess_effect {a : Access} {s t : State} (h : hostAccess a s = .next t) :
    (∃ d r, t = { s with draws := d, resp := r }) ∨
      (∃ v, a = .write (s.cfg.base + 0x010) 8 v ∧ t = { s.writeCtrl v with resp := .writeOkay }) ∨
      (∃ v, a = .write (s.cfg.base + 0x018) 8 v ∧ t = { s.writeStatus v with resp := .writeOkay }) ∨
      (s.busy = true ∧ ∃ addr size v d, a = .write addr size v ∧ inWindow s.cfg addr = true ∧
        slotOf s.cfg (addr - s.cfg.base) size = some d ∧ (d = .cmd ∨ d.operand = true) ∧
        t = { s.discardWrite with resp := .writeOkay }) ∨
      (s.busy = false ∧ ∃ v, a = .write (s.cfg.base + 0x020) 8 v ∧ t = { s.accept v with resp := .writeOkay }) ∨
      (s.busy = false ∧ ∃ addr size v r, a = .write addr size v ∧ slotOf s.cfg (addr - s.cfg.base) size = some (.reg r) ∧
        t = { s.setReg r v with resp := .writeOkay }) ∨
      (s.busy = false ∧ ∃ addr size v b j, a = .write addr size v ∧
        slotOf s.cfg (addr - s.cfg.base) size = some (.byte b j) ∧
        t = { s.setBufByte b j (v.setWidth 8) with resp := .writeOkay }) := by
  obtain ⟨hw, ⟨addr, size, rfl, rfl⟩ | ⟨addr, size, v, rfl, rfl⟩⟩ := hostAccess_next h
  · refine .inl ?_
    obtain e | ⟨d, -, e | e⟩ := s.busRead_cases (addr - s.cfg.base) size <;> rw [e]
    · exact ⟨s.draws, _, rfl⟩
    · exact ⟨s.draws, _, rfl⟩
    · exact ⟨s.draws + 1, _, rfl⟩
  · have hin : s.cfg.base ≤ addr := by simp [inWindow, Access.addr] at hw; exact of_decide_eq_true hw.1
    obtain e | ⟨d, hd, e⟩ := s.busWrite_cases (addr - s.cfg.base) size v
    · exact .inl ⟨s.draws, _, e⟩
    · obtain ⟨hctrl, hstatus, hcmd⟩ := slotOf_control hd
      have at_offset {off : Nat} (ho : addr - s.cfg.base = off) : addr = s.cfg.base + off := by omega
      rw [e]
      obtain e | ⟨ht, e⟩ | ⟨ht, e⟩ | ⟨hb, ht, e⟩ | ⟨hb, ht, e⟩ | ⟨hb, r, ht, e⟩ | ⟨hb, b, j, ht, e⟩ :=
        s.writeSlot_cases v d <;> rw [e]
      · exact .inl ⟨s.draws, _, rfl⟩
      · obtain ⟨ho, rfl⟩ := hctrl ht
        exact .inr (.inl ⟨v, by rw [at_offset ho], rfl⟩)
      · obtain ⟨ho, rfl⟩ := hstatus ht
        exact .inr (.inr (.inl ⟨v, by rw [at_offset ho], rfl⟩))
      · exact .inr (.inr (.inr (.inl ⟨hb, addr, size, v, d, rfl, hw, hd, ht, rfl⟩)))
      · obtain ⟨ho, rfl⟩ := hcmd ht
        exact .inr (.inr (.inr (.inr (.inl ⟨hb, v, by rw [at_offset ho], rfl⟩))))
      · exact .inr (.inr (.inr (.inr (.inr (.inl ⟨hb, addr, size, v, r, rfl, ht ▸ hd, rfl⟩)))))
      · exact .inr (.inr (.inr (.inr (.inr (.inr ⟨hb, addr, size, v, b, j, rfl, ht ▸ hd, rfl⟩)))))

end Sys2Proof.Machine
end

