-- ==== Sys2Proof/Laws/Encoding.lean ====
section
/-! SUPPORT. A format-C word gives back the fields it was put together from (30_encoding.md R81). -/

namespace Sys2Proof

/-- The word with its register fields as bit vectors. -/
def formatC (op : BitVec 6) (rd a b c d : BitVec 4) (nw : Bool) (res : BitVec 5) : CmdWord :=
  op.setWidth 32 <<< 26 ||| rd.setWidth 32 <<< 22 ||| a.setWidth 32 <<< 18 ||| b.setWidth 32 <<< 14
    ||| c.setWidth 32 <<< 10 ||| d.setWidth 32 <<< 6 ||| (BitVec.ofBool nw).setWidth 32 <<< 5 ||| res.setWidth 32

theorem Fields.word_eq_formatC (f : Fields) :
    f.word = formatC f.op (BitVec.ofFin f.rd) (BitVec.ofFin f.rs1) (BitVec.ofFin f.rs2) (BitVec.ofFin f.rs3)
      (BitVec.ofFin f.rs4) f.nw f.res := rfl

section
variable (op : BitVec 6) (rd a b c d : BitVec 4) (nw : Bool) (res : BitVec 5)

theorem formatC_op : (formatC op rd a b c d nw res).extractLsb' 26 6 = op := by
  apply BitVec.eq_of_getLsbD_eq
  intro i hi
  interval_cases i <;> simp [formatC]

theorem formatC_rd : (formatC op rd a b c d nw res).extractLsb' 22 4 = rd := by
  apply BitVec.eq_of_getLsbD_eq
  intro i hi
  interval_cases i <;> simp [formatC]

theorem formatC_rs1 : (formatC op rd a b c d nw res).extractLsb' 18 4 = a := by
  apply BitVec.eq_of_getLsbD_eq
  intro i hi
  interval_cases i <;> simp [formatC]

theorem formatC_rs2 : (formatC op rd a b c d nw res).extractLsb' 14 4 = b := by
  apply BitVec.eq_of_getLsbD_eq
  intro i hi
  interval_cases i <;> simp [formatC]

theorem formatC_rs3 : (formatC op rd a b c d nw res).extractLsb' 10 4 = c := by
  apply BitVec.eq_of_getLsbD_eq
  intro i hi
  interval_cases i <;> simp [formatC]

theorem formatC_rs4 : (formatC op rd a b c d nw res).extractLsb' 6 4 = d := by
  apply BitVec.eq_of_getLsbD_eq
  intro i hi
  interval_cases i <;> simp [formatC]

theorem formatC_nw : (formatC op rd a b c d nw res).getLsbD 5 = nw := by
  simp [formatC]

theorem formatC_res : (formatC op rd a b c d nw res).extractLsb' 0 5 = res := by
  apply BitVec.eq_of_getLsbD_eq
  intro i hi
  interval_cases i <;> simp [formatC]

end

/-- Putting a word together and taking it apart gives the same fields (R81). -/
theorem fieldsOf_word (f : Fields) : fieldsOf f.word = f := by
  rw [Fields.word_eq_formatC]
  simp only [fieldsOf, regField, formatC_op, formatC_rd, formatC_rs1, formatC_rs2, formatC_rs3, formatC_rs4, formatC_nw,
    formatC_res]

end Sys2Proof
end

