-- ==== Sys2Proof/Laws/Memory.lean ====
section
/-! SUPPORT. The laws of the buffer bytes: reading after writing, and that every memory operation keeps the canonical form. -/

namespace Sys2Proof.Machine

/-- Every listed offset of `m` lies above `a`. -/
def Memory.Above (a : Nat) (m : Memory) : Prop := ∀ c ∈ m, a < c.1

theorem Memory.wf_cons_iff (a : Nat) (b : Byte) (m : Memory) :
    Memory.wf ((a, b) :: m) = true ↔ b ≠ 0 ∧ Memory.Above a m ∧ Memory.wf m = true := by
  induction m generalizing a b with
  | nil => simp [Memory.wf, Memory.Above]
  | cons c rest ih =>
    obtain ⟨a', b'⟩ := c
    simp only [Memory.wf, Bool.and_eq_true, decide_eq_true_eq, bne_iff_ne]
    constructor
    · rintro ⟨⟨hlt, hb⟩, hw⟩
      refine ⟨hb, ?_, hw⟩
      intro c hc
      rcases List.mem_cons.mp hc with rfl | hc
      · exact hlt
      · exact Nat.lt_trans hlt (((ih a' b').mp hw).2.1 c hc)
    · rintro ⟨hb, hab, hw⟩
      exact ⟨⟨hab (a', b') (by simp), hb⟩, hw⟩

theorem Memory.read_of_above {a : Nat} {m : Memory} (h : Memory.Above a m) {off : Nat} (ho : off ≤ a) :
    Memory.read m off = 0 := by
  induction m with
  | nil => rfl
  | cons c rest ih =>
    obtain ⟨a', b'⟩ := c
    have h1 : a < a' := h (a', b') (by simp)
    have h2 : Memory.Above a rest := fun c hc => h c (by simp [hc])
    simp [Memory.read, Nat.ne_of_gt (Nat.lt_of_le_of_lt ho h1), ih h2]

@[simp] theorem Memory.read_cons (a : Nat) (b : Byte) (m : Memory) (off : Nat) :
    Memory.read ((a, b) :: m) off = if a = off then b else Memory.read m off := rfl

theorem Memory.read_memCons_ne (addr : Nat) (v : Byte) (m : Memory) (off : Nat) (h : off ≠ addr) :
    Memory.read (Memory.cons addr v m) off = Memory.read m off := by
  unfold Memory.cons
  split <;> simp [h.symm]

theorem Memory.read_memCons_self {addr : Nat} {v : Byte} {m : Memory} (h : Memory.Above addr m) :
    Memory.read (Memory.cons addr v m) addr = v := by
  unfold Memory.cons
  split
  · simp_all [Memory.read_of_above h (Nat.le_refl _)]
  · simp

/-- A write leaves every other byte alone; no canonical form is needed. -/
theorem Memory.read_write_of_ne (m : Memory) (addr : Nat) (v : Byte) (off : Nat) (h : off ≠ addr) :
    Memory.read (Memory.write m addr v) off = Memory.read m off := by
  induction m with
  | nil => simpa [Memory.write] using Memory.read_memCons_ne addr v [] off h
  | cons c rest ih =>
    obtain ⟨a, b⟩ := c
    simp only [Memory.write]
    split
    · simp [ih]
    · split
      · rename_i ha
        subst ha
        simp [Memory.read_memCons_ne _ _ _ _ h, h.symm]
      · exact Memory.read_memCons_ne addr v _ off h

/-- A read after a write gives the byte written. -/
theorem Memory.read_write_self {m : Memory} (hw : Memory.wf m = true) (addr : Nat) (v : Byte) :
    Memory.read (Memory.write m addr v) addr = v := by
  induction m with
  | nil => exact Memory.read_memCons_self (fun _ hc => nomatch hc)
  | cons c rest ih =>
    obtain ⟨a, b⟩ := c
    obtain ⟨-, hab, hr⟩ := (Memory.wf_cons_iff a b rest).mp hw
    simp only [Memory.write]
    split
    · rename_i ha
      simp [ih hr, Nat.ne_of_lt ha]
    · split
      · rename_i ha
        subst ha
        exact Memory.read_memCons_self hab
      · refine Memory.read_memCons_self ?_
        intro c hc
        rcases List.mem_cons.mp hc with rfl | hc
        · dsimp only; omega
        · have := hab c hc
          omega

theorem Memory.read_write {m : Memory} (hw : Memory.wf m = true) (addr : Nat) (v : Byte) (off : Nat) :
    Memory.read (Memory.write m addr v) off = if off = addr then v else Memory.read m off := by
  split
  · rename_i h
    subst h
    exact Memory.read_write_self hw off v
  · rename_i h
    exact Memory.read_write_of_ne m addr v off h

theorem Memory.wf_memCons {addr : Nat} {v : Byte} {m : Memory} (hm : Memory.wf m = true) (ha : Memory.Above addr m) :
    Memory.wf (Memory.cons addr v m) = true := by
  unfold Memory.cons
  split
  · exact hm
  · rename_i hv
    exact (Memory.wf_cons_iff addr v m).mpr ⟨hv, ha, hm⟩

theorem Memory.mem_write {m : Memory} {addr : Nat} {v : Byte} {c : Host.Cell} (h : c ∈ Memory.write m addr v) :
    c = (addr, v) ∨ c ∈ m := by
  induction m with
  | nil =>
    simp only [Memory.write, Memory.cons] at h
    split at h <;> simp_all
  | cons d rest ih =>
    obtain ⟨a, b⟩ := d
    simp only [Memory.write, Memory.cons] at h
    split at h
    · rcases List.mem_cons.mp h with h | h
      · simp [h]
      · rcases ih h with h | h <;> simp [h]
    · split at h
      · split at h
        · simp [h]
        · rcases List.mem_cons.mp h with h | h <;> simp [h]
      · split at h
        · exact .inr h
        · rcases List.mem_cons.mp h with h | h
          · exact .inl h
          · exact .inr h

/-- A write keeps the canonical form. -/
theorem Memory.wf_write {m : Memory} (hw : Memory.wf m = true) (addr : Nat) (v : Byte) :
    Memory.wf (Memory.write m addr v) = true := by
  induction m with
  | nil => exact Memory.wf_memCons rfl (fun _ hc => nomatch hc)
  | cons c rest ih =>
    obtain ⟨a, b⟩ := c
    obtain ⟨hb, hab, hr⟩ := (Memory.wf_cons_iff a b rest).mp hw
    simp only [Memory.write]
    split
    · rename_i ha
      refine (Memory.wf_cons_iff _ _ _).mpr ⟨hb, ?_, ih hr⟩
      intro c hc
      rcases Memory.mem_write hc with rfl | hc
      · exact ha
      · exact hab c hc
    · split
      · rename_i ha
        subst ha
        exact Memory.wf_memCons hr hab
      · refine Memory.wf_memCons hw ?_
        intro c hc
        rcases List.mem_cons.mp hc with rfl | hc
        · dsimp only; omega
        · have := hab c hc
          omega

theorem Memory.wf_writeList {m : Memory} (hw : Memory.wf m = true) (addr : Nat) (bs : List Byte) :
    Memory.wf (Memory.writeList m addr bs) = true := by
  induction bs generalizing m addr with
  | nil => exact hw
  | cons b bs ih => exact ih (Memory.wf_write hw addr b) (addr + 1)

theorem Memory.wf_filter {m : Memory} (hw : Memory.wf m = true) (p : Host.Cell → Bool) :
    Memory.wf (m.filter p) = true := by
  induction m with
  | nil => rfl
  | cons c rest ih =>
    obtain ⟨a, b⟩ := c
    obtain ⟨hb, hab, hr⟩ := (Memory.wf_cons_iff a b rest).mp hw
    rw [List.filter_cons]
    split
    · exact (Memory.wf_cons_iff _ _ _).mpr ⟨hb, fun c hc => hab c (List.mem_of_mem_filter hc), ih hr⟩
    · exact ih hr

theorem Memory.mem_writeList {m : Memory} {addr : Nat} {bs : List Byte} {c : Host.Cell}
    (h : c ∈ Memory.writeList m addr bs) : (addr ≤ c.1 ∧ c.1 < addr + bs.length) ∨ c ∈ m := by
  induction bs generalizing m addr with
  | nil => exact .inr h
  | cons b bs ih =>
    rcases ih h with h | h
    · left
      simp only [List.length_cons]
      omega
    · rcases Memory.mem_write h with rfl | h
      · left
        simp
      · exact .inr h

/-- Outside the bytes written, a buffer write changes nothing. -/
theorem Memory.read_writeList_outside (m : Memory) (addr : Nat) (bs : List Byte) (off : Nat)
    (h : off < addr ∨ addr + bs.length ≤ off) : Memory.read (Memory.writeList m addr bs) off = Memory.read m off := by
  induction bs generalizing m addr with
  | nil => rfl
  | cons b bs ih =>
    simp only [List.length_cons] at h
    simp only [Memory.writeList]
    rw [ih _ _ (by omega), Memory.read_write_of_ne _ _ _ _ (by omega)]

/-- Byte j of a buffer write. -/
theorem Memory.read_writeList {m : Memory} (hw : Memory.wf m = true) (addr : Nat) (bs : List Byte) (j : Nat)
    (h : j < bs.length) : Memory.read (Memory.writeList m addr bs) (addr + j) = bs[j] := by
  induction bs generalizing m addr j with
  | nil => simp at h
  | cons b bs ih =>
    simp only [Memory.writeList]
    cases j with
    | zero =>
      rw [Memory.read_writeList_outside _ _ _ _ (by omega)]
      simpa using Memory.read_write_self hw addr b
    | succ j =>
      have := ih (Memory.wf_write hw addr b) (addr + 1) j (by simpa using h)
      rw [show addr + (j + 1) = addr + 1 + j by omega, this]
      simp

/-- Reading after bytes have been dropped: a dropped offset reads 0, every other one as before. -/
theorem Memory.read_filter (m : Memory) (p : Nat → Bool) (off : Nat) :
    Memory.read (m.filter (fun c => p c.1)) off = if p off then Memory.read m off else 0 := by
  induction m with
  | nil => simp [Memory.read]
  | cons c rest ih =>
    obtain ⟨a, b⟩ := c
    by_cases ha : a = off
    · subst ha
      by_cases hp : p a = true
      · simp [hp]
      · simp [hp, ih]
    · by_cases hp : p a = true
      · simp [hp, ih, ha]
      · simp [hp, ih, ha]

/-- Reset lists no byte. -/
theorem Memory.wf_reset (c : Config) : Memory.wf (State.resetWith c).mem = true := rfl

end Sys2Proof.Machine
end

