-- ==== Sys2Proof/Laws/PerInstr.lean ====
section
/-! SUPPORT. The per-instruction family EncodeFields: the word of an instruction holds its fields, each at the place R81
gives it, and nothing in the reserved bits (30_encoding.md R81, R85). -/

namespace Sys2Proof.Laws.EncodeFields

/-- Taken apart, the word of `i` gives the fields of `i`. -/
def Statement (i : Instr) : Prop := fieldsOf (encode i) = i.fields

theorem madd (rd ra rb rm : Reg) : Statement (.madd rd ra rb rm) := fieldsOf_word _

theorem maddNw (rd ra rb : Reg) : Statement (.maddNw rd ra rb) := fieldsOf_word _

theorem mmul (rd ra rb rm : Reg) : Statement (.mmul rd ra rb rm) := fieldsOf_word _

theorem mmulNw (rd ra rb : Reg) : Statement (.mmulNw rd ra rb) := fieldsOf_word _

theorem mpow (rd ra rb rm : Reg) : Statement (.mpow rd ra rb rm) := fieldsOf_word _

theorem mpowNw (rd ra rb : Reg) : Statement (.mpowNw rd ra rb) := fieldsOf_word _

theorem gcd (rd ra rb : Reg) : Statement (.gcd rd ra rb) := fieldsOf_word _

theorem xgcd (rd ra rb : Reg) : Statement (.xgcd rd ra rb) := fieldsOf_word _

theorem minv (rd ra rm : Reg) : Statement (.minv rd ra rm) := fieldsOf_word _

theorem mrfact (rd rn : Reg) : Statement (.mrfact rd rn) := fieldsOf_word _

theorem mrwit (rd rn ra rk rq : Reg) : Statement (.mrwit rd rn ra rk rq) := fieldsOf_word _

theorem mrtest (rd rn : Reg) : Statement (.mrtest rd rn) := fieldsOf_word _

theorem rsa64 (rd rm rk rn : Reg) : Statement (.rsa64 rd rm rk rn) := fieldsOf_word _

theorem rsaw : Statement (.rsaw) := fieldsOf_word _

theorem zeroize : Statement (.zeroize) := fieldsOf_word _

end Sys2Proof.Laws.EncodeFields
end

