-- ==== Sys2Proof/Laws/Rsaw.lean ====
section
/-! SUPPORT. What the turns of RSAW's conversation can do (43_rsa.md R160, R161). -/

namespace Sys2Proof.Machine

/-- Sending changes the outstanding request only. -/
theorem State.send_eq (s : State) : s.send = { s with bigReq := s.send.bigReq } := by
  unfold State.send
  split <;> rfl

/-- After sending, the next request is outstanding unless another one was. -/
theorem State.send_of_none {s : State} (h : s.bigReq = none) : s.send = { s with bigReq := s.nextRequest } := by
  simp [State.send, h]

/-- With no request outstanding the collaborator's turn changes nothing (R231). -/
theorem State.collabTurn_of_none {s : State} (h : s.bigReq = none) : s.collabTurn = s := by
  simp [State.collabTurn, h]

/-- With a request outstanding it is answered by the next draw (R161). -/
theorem State.collabTurn_of_some {s : State} {r : Request} (h : s.bigReq = some r) :
    s.collabTurn =
      { s with
        bigReq := none
        rsaw := if s.replyAt 0 then s.rsaw.absorb (answer r) else .failed .collabFail
        replies := s.dropReply.replies
        draws := s.dropReply.draws } := by
  simp only [State.collabTurn, h]
  rw [State.dropReply_eq s]

/-- A collaborator turn changes the request, RSAW's working values and the draws only. -/
theorem State.collabTurn_eq (s : State) :
    s.collabTurn =
      { s with
        bigReq := s.collabTurn.bigReq, rsaw := s.collabTurn.rsaw, replies := s.collabTurn.replies,
        draws := s.collabTurn.draws } := by
  cases h : s.bigReq with
  | none => rw [State.collabTurn_of_none h]
  | some r => rw [State.collabTurn_of_some h]

/-- A whole conversation changes the request, RSAW's working values and the draws only. -/
theorem State.converse_eq (n : Nat) (s : State) :
    State.converse n s =
      { s with
        bigReq := (State.converse n s).bigReq, rsaw := (State.converse n s).rsaw,
        replies := (State.converse n s).replies, draws := (State.converse n s).draws } := by
  induction n generalizing s with
  | zero => rfl
  | succ n ih =>
    simp only [State.converse]
    rw [ih, State.collabTurn_eq, State.send_eq]

/-- The completion of RSAW: a buffer write on success, else an error and no write (R164, R182). -/
theorem State.rsawComplete_cases (s : State) :
    (∃ bytes, s.rsaw = .ready bytes ∧ s.rsawComplete = (s.setBuf .m bytes).finish .none) ∨
      ∃ c, s.rsawComplete = s.finish c ∧ (s.rsaw = .failed c ∨ c = .collabFail) := by
  unfold State.rsawComplete
  split
  · exact .inl ⟨_, by assumption, rfl⟩
  · exact .inr ⟨_, rfl, .inl (by assumption)⟩
  · exact .inr ⟨_, rfl, .inr rfl⟩

end Sys2Proof.Machine
end

