-- ==== Sys2Proof/Laws/Step.lean ====
section
/-! SUPPORT. What one step can do, said once: one case for each input, and one for each way the engine's turn can end. -/

namespace Sys2Proof.Machine

/-- A step is the turn of `Spec.turn`, taken with that input used up. -/
theorem step_eq (s : State) : step s = inputTurn (Spec.turn s) { s with inputs := s.inputs.tail } := by
  unfold step stepOnce Spec.turn
  cases h : s.inputs with
  | nil =>
    have e : ({ s with inputs := [] } : State) = s := by rw [← h]
    simp only [List.headD_nil, List.tail_nil, inputTurn, e]
  | cons i rest => rfl

/-- Everything a step can do. -/
theorem step_next {s t : State} (h : step s = .next t) :
    (∃ a, Spec.turn s = .host a ∧ hostAccess a { s with inputs := s.inputs.tail } = .next t) ∨
      (Spec.turn s = .engine ∧ engineTurn { s with inputs := s.inputs.tail } = .next t) ∨
      (Spec.turn s = .port ∧ t = State.portTurn { s with inputs := s.inputs.tail }) ∨
      (Spec.turn s = .collab ∧ t = State.collabTurn { s with inputs := s.inputs.tail }) ∨
      (Spec.turn s = .reset ∧ t = State.resetInput { s with inputs := s.inputs.tail }) := by
  rw [step_eq] at h
  cases hi : Spec.turn s with
  | host a =>
    rw [hi] at h
    exact .inl ⟨a, rfl, h⟩
  | engine =>
    rw [hi] at h
    exact .inr (.inl ⟨rfl, h⟩)
  | port =>
    rw [hi] at h
    injection h with h
    exact .inr (.inr (.inl ⟨rfl, h.symm⟩))
  | collab =>
    rw [hi] at h
    injection h with h
    exact .inr (.inr (.inr (.inl ⟨rfl, h.symm⟩)))
  | reset =>
    rw [hi] at h
    injection h with h
    exact .inr (.inr (.inr (.inr ⟨rfl, h.symm⟩)))

/-- Everything the engine's turn can do: nothing, the completion of an illegal command, or a command's meaning (R181, R87). -/
theorem engineTurn_next {s t : State} (h : engineTurn s = .next t) :
    (s.pending = none ∧ t = s) ∨
      ∃ v, s.pending = some v ∧
        ((∃ e, decode v = .error e ∧ t = s.finish .illegalCommand) ∨ ∃ i, decode v = .ok i ∧ exec i s = .next t) := by
  unfold engineTurn at h
  split at h
  · rename_i hp
    injection h with h
    exact .inl ⟨hp, h.symm⟩
  · rename_i v hp
    refine .inr ⟨v, hp, ?_⟩
    split at h
    · rename_i i hd
      exact .inr ⟨i, hd, h⟩
    · rename_i e hd
      injection h with h
      exact .inl ⟨e, hd, h.symm⟩

end Sys2Proof.Machine
end

