-- ==== Sys2Proof/Tests/Slice0.lean ====
section
/-! SUPPORT. The model's own tests: expected values are those of 95_test_vectors.md or are worked by hand from the rule
named. Then, for every statement with hypotheses, a witness that meets them. -/

namespace Sys2Proof.Tests

open Sys2Proof.Machine

/-! ### Helpers -/

/-- Reset with KEYBITS = 32 (W = 4), BASE = 0x40000. -/
def base32 : State := State.resetWith { keyBits := 32, base := 0x40000 }

/-- Reset with some registers set. -/
def withRegs (l : List (Reg × Word)) : State := l.foldl (fun s p => s.setReg p.1 p.2) base32

/-- Reset with the three buffers set and the collaborator's replies fixed. -/
def withBufs (m k n : List Byte) (replies : List Bool) : State :=
  { ((base32.setBuf .m m).setBuf .k k).setBuf .n n with replies := replies }

/-- The next state, where there is one. -/
def nextOf (o : Host.Outcome State Fault Refusal) : Option State :=
  match o with
  | .next t => some t
  | .fault _ => none
  | .refused _ => none

/-- A register, and ERR, after an instruction. -/
def regErr (i : Instr) (s : State) (r : Reg) : Option (Word × BitVec 8) :=
  (nextOf (exec i s)).map (fun t => (t.reg r, t.err))

/-- The bytes of MBUF, and ERR, after an instruction. -/
def mbufErr (i : Instr) (s : State) : Option (List Byte × BitVec 8) :=
  (nextOf (exec i s)).map (fun t => (t.bufBytes .m, t.err))

/-- The state after a list of inputs. -/
def runInputs (l : List Input) (s : State) : Option State :=
  nextOf (Host.Core.run core l.length { s with inputs := l })

/-! ### WellFormed (R85) -/

theorem test_wf_xgcd_refuses_14 : (Instr.xgcd 14 1 2).wellFormed = false := by decide
theorem test_wf_xgcd_allows_13 : (Instr.xgcd 13 1 2).wellFormed = true := by decide
theorem test_wf_mrfact_refuses_15 : (Instr.mrfact 15 1).wellFormed = false := by decide
theorem test_wf_mrfact_allows_14 : (Instr.mrfact 14 1).wellFormed = true := by decide
theorem test_assemble_refuses : assemble (.xgcd 14 1 2) = none ∧ assemble (.mrfact 15 1) = none := by decide

/-! ### Decode: each word written out by R81: opcode, rd, rs1, rs2, rs3, rs4, nw, res -/

theorem test_decode_madd : decode 0b000001_0000_0001_0010_0011_0000_0_00000 = .ok (.madd 0 1 2 3) := by decide
theorem test_decode_maddNw : decode 0b000001_0100_0001_1111_0000_0000_1_00000 = .ok (.maddNw 4 1 15) := by decide
theorem test_decode_mmul : decode 0b000010_0001_0001_0001_0011_0000_0_00000 = .ok (.mmul 1 1 1 3) := by decide
theorem test_decode_mmulNw : decode 0b000010_0101_0001_0010_0000_0000_1_00000 = .ok (.mmulNw 5 1 2) := by decide
theorem test_decode_mpow : decode 0b000011_1001_1010_1011_1100_0000_0_00000 = .ok (.mpow 9 10 11 12) := by decide
theorem test_decode_mpowNw : decode 0b000011_0001_0001_0010_0000_0000_1_00000 = .ok (.mpowNw 1 1 2) := by decide
theorem test_decode_gcd : decode 0b000100_0110_0100_0101_0000_0000_0_00000 = .ok (.gcd 6 4 5) := by decide
theorem test_decode_xgcd : decode 0b000101_1101_0001_0010_0000_0000_0_00000 = .ok (.xgcd 13 1 2) := by decide
theorem test_decode_minv : decode 0b000110_1110_1100_0000_1000_0000_0_00000 = .ok (.minv 14 12 8) := by decide
theorem test_decode_mrfact : decode 0b001000_1110_0001_0000_0000_0000_0_00000 = .ok (.mrfact 14 1) := by decide
theorem test_decode_mrwit : decode 0b001001_0101_0001_0100_0010_0011_0_00000 = .ok (.mrwit 5 1 4 2 3) := by decide
theorem test_decode_mrtest : decode 0b001010_0110_0001_0000_0000_0000_0_00000 = .ok (.mrtest 6 1) := by decide
theorem test_decode_rsa64 : decode 0b001100_0101_0000_0100_0011_0000_0_00000 = .ok (.rsa64 5 0 4 3) := by decide
theorem test_decode_rsaw : decode 0b001101_0000_0000_0000_0000_0000_0_00000 = .ok .rsaw := by decide
theorem test_decode_zeroize : decode 0b111111_0000_0000_0000_0000_0000_0_00000 = .ok .zeroize := by decide

/-- The illegal rows of 95_test_vectors.md §6. -/
theorem test_decode_illegal :
    decode 0x00000000 = .error .reservedOpcode ∧ decode 0x1C000000 = .error .reservedOpcode ∧
    decode 0x2C000000 = .error .reservedOpcode ∧ decode 0x30048C01 = .error .reservedBits ∧
    decode 0xFC000001 = .error .reservedBits ∧ decode 0x30048C40 = .error .nonzeroField ∧
    decode 0x30048C20 = .error .nonzeroField ∧ decode 0x0C448C20 = .error .nonzeroField ∧
    decode 0x10048400 = .error .nonzeroField ∧ decode 0x18048C00 = .error .nonzeroField ∧
    decode 0x24000020 = .error .nonzeroField ∧ decode 0x28448000 = .error .nonzeroField ∧
    decode 0x34400000 = .error .nonzeroField ∧ decode 0x17848000 = .error .rdBound ∧
    decode 0x23C40000 = .error .rdBound ∧ decode 0x0000000130048C00 = .error .upperHalf := by decide

/-- Encodings in the programs of 95_test_vectors.md §7. -/
theorem test_encode_programs :
    encode (.rsa64 6 7 2 3) = 0x319C8C00 ∧ encode (.maddNw 5 2 15) = 0x054BC020 ∧ encode (.minv 14 12 8) = 0x1BB02000 ∧
    encode (.mrwit 5 1 4 2 3) = 0x254508C0 ∧ encode (.mrfact 2 1) = 0x20840000 ∧ encode (.gcd 13 12 8) = 0x13720000 := by
  decide

/-- Assembly text (R90). -/
theorem test_asm : (Instr.maddNw 4 1 15).asm = "MADD.NW R4, R1, R15" ∧ Instr.rsaw.asm = "RSAW" := by decide

/-- Assembly lines of 95_test_vectors.md §7 and R92, in either case; an illegal rd and a wrong operand count. -/
theorem test_assemble_text :
    assembleText "RSA64 R6, R7, R2, R3" = some 0x319C8C00 ∧ assembleText "mmul.nw r5, r1, r2" = some 0x09448020 ∧
    assembleText "ZEROIZE" = some 0xFC000000 ∧ parseAsm "MSQR.NW R1, R10" = some (.mmulNw 1 10 10) ∧
    assembleText "XGCD R14, R1, R2" = none ∧ assembleText "GCD R1, R2" = none ∧ assembleText "GCD R1, R2, R16" = none := by
  decide +kernel

/-- MSQR (R91), and the same-register vector of 95 §2: 25 mod 7 into the source register. -/
theorem test_msqr : regErr (.msqr 1 1 3) (withRegs [(1, 5), (3, 7)]) 1 = some (4, 0) := by decide

/-! ### Instructions: 95_test_vectors.md §2 to §5 -/

theorem test_madd_sum_above_width : regErr (.madd 0 1 2 3)
    (withRegs [(1, 0xFFFFFFFFFFFFFFFE), (2, 0xFFFFFFFFFFFFFFFE), (3, 0xFFFFFFFFFFFFFFFF)]) 0 =
    some (0xFFFFFFFFFFFFFFFD, 0) := by decide
theorem test_madd_example : regErr (.madd 0 1 2 3) (withRegs [(1, 10), (2, 20), (3, 7)]) 0 = some (2, 0) := by decide
theorem test_maddNw_wraps : regErr (.maddNw 0 1 2) (withRegs [(1, 0xFFFFFFFFFFFFFFFF), (2, 1), (0, 9)]) 0 = some (0, 0) := by
  decide
theorem test_mmul_full_product : regErr (.mmul 0 1 2 3)
    (withRegs [(1, 0x100000000), (2, 0x100000000), (3, 0xFFFFFFFFFFFFFFFF)]) 0 = some (1, 0) := by decide
theorem test_mmul_sentinel : regErr (.mmul 0 1 2 3) (withRegs [(1, 0x8000000000000000), (2, 2), (0, 5)]) 0 = some (0, 0) := by
  decide
theorem test_mmulNw_doc : regErr (.mmulNw 0 1 2) (withRegs [(1, 61), (2, 53)]) 0 = some (3233, 0) := by decide
theorem test_mpow_doc : regErr (.mpow 0 1 2 3) (withRegs [(1, 65), (2, 17), (3, 3233)]) 0 = some (2790, 0) := by decide
theorem test_mpow_zero_exponent_mod_one : regErr (.mpow 0 1 2 3) (withRegs [(1, 5), (3, 1), (0, 9)]) 0 = some (0, 0) := by
  decide
theorem test_mpowNw_exponent_not_reduced : regErr (.mpowNw 0 1 2) (withRegs [(1, 3), (2, 0xFFFFFFFFFFFFFFFF)]) 0 =
    some (0xAAAAAAAAAAAAAAAB, 0) := by decide +kernel
theorem test_mpowNw_zero_to_zero : regErr (.mpowNw 0 1 2) base32 0 = some (1, 0) := by decide
theorem test_gcd_fibonacci : regErr (.gcd 0 1 2)
    (withRegs [(1, 12200160415121876738), (2, 7540113804746346429)]) 0 = some (1, 0) := by decide +kernel
theorem test_gcd_zero_left : regErr (.gcd 0 1 2) (withRegs [(2, 9)]) 0 = some (9, 0) := by decide +kernel
theorem test_xgcd_negative_x :
    regErr (.xgcd 4 4 5) (withRegs [(4, 17), (5, 3120)]) 4 = some (1, 0) ∧
    regErr (.xgcd 4 4 5) (withRegs [(4, 17), (5, 3120)]) 5 = some (0xFFFFFFFFFFFFFE91, 0) ∧
    regErr (.xgcd 4 4 5) (withRegs [(4, 17), (5, 3120)]) 6 = some (2, 0) := by decide +kernel
theorem test_xgcd_near_bound :
    regErr (.xgcd 13 1 2) (withRegs [(1, 2), (2, 18446744073709551557)]) 14 = some (0x800000000000001E, 0) ∧
    regErr (.xgcd 13 1 2) (withRegs [(1, 2), (2, 18446744073709551557)]) 15 = some (1, 0) := by decide +kernel
theorem test_minv_corrected : regErr (.minv 0 1 2) (withRegs [(1, 17), (2, 3120)]) 0 = some (2753, 0) := by decide +kernel
theorem test_minv_no_inverse_and_zero :
    regErr (.minv 0 1 2) (withRegs [(1, 6), (2, 9), (0, 5)]) 0 = some (0, 0) ∧
    regErr (.minv 0 1 2) (withRegs [(1, 5), (0, 5)]) 0 = some (5, 10) := by decide +kernel
theorem test_mrfact_vectors :
    regErr (.mrfact 2 1) (withRegs [(1, 561)]) 2 = some (4, 0) ∧ regErr (.mrfact 2 1) (withRegs [(1, 561)]) 3 = some (35, 0) ∧
    regErr (.mrfact 2 1) base32 3 = some (0xFFFFFFFFFFFFFFFF, 0) := by decide +kernel
theorem test_mrfact_one : regErr (.mrfact 2 1) (withRegs [(1, 1), (2, 7)]) 2 = some (7, 9) := by decide +kernel
theorem test_mrwit_composite : regErr (.mrwit 5 1 4 2 3) (withRegs [(1, 561), (4, 2), (2, 4), (3, 35), (5, 9)]) 5 =
    some (0, 0) := by decide +kernel
theorem test_mrwit_minus_one_needs_k :
    regErr (.mrwit 5 1 4 2 3) (withRegs [(1, 41), (4, 40), (2, 3), (3, 5)]) 5 = some (1, 0) ∧
    regErr (.mrwit 5 1 4 2 3) (withRegs [(1, 41), (4, 40), (2, 0), (3, 5), (5, 9)]) 5 = some (0, 0) ∧
    regErr (.mrwit 5 1 4 2 3) (withRegs [(1, 41), (2, 64), (5, 9)]) 5 = some (9, 9) := by decide +kernel
theorem test_mrtest_pseudoprime : regErr (.mrtest 0 1) (withRegs [(1, 3825123056546413051), (0, 9)]) 0 = some (0, 0) := by
  decide +kernel
theorem test_mrtest_largest_prime : regErr (.mrtest 0 1) (withRegs [(1, 18446744073709551557)]) 0 = some (1, 0) := by
  decide +kernel
theorem test_rsa64_doc : regErr (.rsa64 5 0 4 3) (withRegs [(0, 2790), (4, 2753), (3, 3233)]) 5 = some (65, 0) := by
  decide +kernel
theorem test_rsa64_boundary :
    regErr (.rsa64 6 7 2 3) (withRegs [(7, 3233), (2, 17), (3, 3233), (6, 5)]) 6 = some (0, 0) ∧
    regErr (.rsa64 6 7 2 3) (withRegs [(7, 3234), (2, 17), (3, 3233), (6, 5)]) 6 = some (5, 3) := by decide +kernel
theorem test_rsaw_doc : mbufErr .rsaw (withBufs [0, 0, 0, 0x41] [0, 0, 0, 0x11] [0, 0, 0x0C, 0xA1] (List.replicate 6 true)) =
    some ([0, 0, 0x0A, 0xE6], 0) := by decide +kernel
theorem test_rsaw_boundary_and_fail :
    mbufErr .rsaw (withBufs [0, 0, 0x0C, 0xA1] [1] [0, 0, 0x0C, 0xA1] (List.replicate 6 true)) =
      some ([0, 0, 0x0C, 0xA1], 3) ∧
    mbufErr .rsaw (withBufs [0, 0, 0, 0x41] [0, 0, 0, 0x11] [0, 0, 0x0C, 0xA1] [true, true, true, true, false]) =
      some ([0, 0, 0, 0x41], 11) := by decide +kernel
theorem test_zeroize :
    (nextOf (exec .zeroize ({ withBufs [1] [2] [3] [] with busyerr := true, ie := true }.setReg 15 7))).map
      (fun t => (t.x, t.mem, t.busyerr, t.ie, t.err)) = some (Vector.replicate 16 0, [], true, true, 0) := by decide +kernel

/-! ### The machine: 95_test_vectors.md §6 -/

/-- An illegal command: STATUS = 0x802, CMD reads the word. -/
theorem test_illegal_command_status :
    (runInputs [.host (.write 0x40020 8 0x17848000), .engine] (withRegs [(1, 5)])).map
      (fun t => (t.statusWord, t.cmdReadback, t.reg 1)) = some (0x802, 0x17848000, 5) := by decide +kernel

/-- The busy hazard of program P5, second schedule: the second CMD write is discarded. -/
theorem test_busy_hazard :
    (runInputs [.host (.write 0x40020 8 0x04048C00), .host (.write 0x40020 8 0x09048C00), .engine]
      (withRegs [(1, 10), (2, 20), (3, 7)])).map (fun t => (t.reg 0, t.reg 4, t.statusWord, t.cmd)) =
      some (2, 0, 0x6, 0x04048C00) := by decide +kernel

/-- RSAW request by request, with a host access between two requests, gives what RSAW gives at once. -/
theorem test_rsaw_by_requests :
    (runInputs [.host (.write 0x40020 8 0x34000000), .port, .collab, .port, .host (.write 0x50003 1 9), .collab, .port, .collab,
      .port, .collab, .port, .collab, .port, .collab, .engine]
      (withBufs [0, 0, 0, 0x41] [0, 0, 0, 0x11] [0, 0, 0x0C, 0xA1] (List.replicate 6 true))).map
      (fun t => (t.bufBytes .m, t.statusWord)) = some ([0, 0, 0x0A, 0xE6], 0x6) := by decide +kernel

/-- Register-page rows: ID, CFG with KEYBITS = 2048, a reserved offset, a misaligned and a short access. -/
theorem test_page_reads :
    (State.reset.busRead 0x000 8).resp = .readOkay 0x000000004D414531 ∧
    (State.reset.busRead 0x008 8).resp = .readOkay 0x0000401000000800 ∧
    (State.reset.busRead 0x028 8).resp = .readOkay 0 ∧ (State.reset.busRead 0x01C 8).resp = .busError ∧
    (State.reset.busRead 0x018 4).resp = .busError ∧ (State.reset.busRead 0x10000 8).resp = .busError ∧
    (State.reset.busRead 0x10100 1).resp = .readOkay 0 := by decide +kernel

/-- A reset in the middle of an RSAW abandons it, and the late reply is discarded (R231). -/
theorem test_reset_abandons :
    (runInputs [.host (.write 0x40020 8 0x34000000), .port, .reset, .collab, .engine]
      (withBufs [1] [1] [2] (List.replicate 6 true))).map (fun t => (t.statusWord, t.mem, t.bigReq, t.rsaw)) =
      some (0, [], none, .idle) := by decide +kernel

/-- A memory that breaks the canonical form is refused by the predicate: not rising, a byte 0 listed. -/
theorem test_memory_wf :
    Memory.wf [(2, 1), (1, 1)] = false ∧ Memory.wf [(1, 0)] = false ∧ Memory.wf [(1, 1), (2, 1)] = true := by decide

/-- The table's first and last rows, through the decoder and as the first instruction after reset. -/
theorem test_fetch_word :
    decodeTableWord 32 0x04048C00 = some (.madd 0 1 2 3) ∧ decodeTableWord 32 0xFC000000 = some .zeroize ∧
    (nextOf (step (State.reset.withFetchWord 32 0x28440000))).map (fun t => (t.statusWord, t.cmd)) = some (2, 0x28440000) := by
  decide +kernel

/-! ### Witnesses: for every statement with hypotheses, concrete operands and states that meet them, clause by clause -/

/-- Idle, with two registers set: the state most witnesses use. -/
def idle : State := withRegs [(1, 5), (2, 3), (3, 7)]

/-- BUSY with MADD R0, R1, R2, R3 in flight. -/
def busyMadd : State := idle.accept 0x04048C00

/-- BUSY with RSAW in flight: W = 4, M = 0x41, K = 0x11, N = 0xCA1, every reply ok. -/
def busyRsaw : State :=
  (withBufs [0, 0, 0, 0x41] [0, 0, 0, 0x11] [0, 0, 0x0C, 0xA1] (List.replicate 6 true)).accept 0x34000000

/-- The same with the first import answered. -/
def midRsaw : State := busyRsaw.portTurn.collabTurn

theorem witness_DecodeOfEncodeIsIdentity :
    (Instr.xgcd 13 1 2).wellFormed = true ∧ (Instr.mrfact 14 1).wellFormed = true ∧ Instr.rsaw.wellFormed = true := by decide

theorem witness_DecodeAcceptsOnlyEncodings : decode 0x17448000 = .ok (.xgcd 13 1 2) := by decide

theorem witness_DecodeFollowsOpcodeMap :
    Instr.row (.xgcd 0 0 0) ∈ opcodeMap ∧ (0x17448000 : CmdWord) &&& 0xFC003FFF = 0x14000000 ∧
    (∃ i, decodeWord 0x17448000 = .ok i ∧ i.row = Instr.row (.xgcd 0 0 0)) ∧
    (0x17848000 : CmdWord) &&& 0xFC003FFF = 0x14000000 ∧ (fieldsOf 0x17848000).rd.val = 14 :=
  ⟨by decide, by decide, ⟨.xgcd 13 1 2, by decide⟩, by decide, by decide⟩

/-- One value for each cause of R87, an idle state and one with an illegal value in flight. -/
theorem witness_IllegalCommandCausesAndEffect :
    decode 0x0000000130048C00 = .error .upperHalf ∧ decode 0x1C000000 = .error .reservedOpcode ∧
    decode 0x30048C01 = .error .reservedBits ∧ decode 0x0C448C20 = .error .nonzeroField ∧
    decode 0x17848000 = .error .rdBound ∧ decode 0x23C40000 = .error .rdBound ∧ idle.busy = false ∧
    (idle.accept 0x17848000).pending = some 0x17848000 := by decide

theorem witness_CommandAcceptance :
    idle.busy = false ∧ busyMadd.busy = true ∧ ∃ t, hostAccess (.write 0x40010 8 1) busyMadd = .next t :=
  ⟨by decide, by decide, _, rfl⟩

theorem witness_StepRunsDecodedInstruction :
    busyMadd.pending = some 0x04048C00 ∧ decode 0x04048C00 = .ok (.madd 0 1 2 3) ∧ busyMadd.inputs = [] ∧
    ({ busyMadd with inputs := [.engine, .reset] } : State).inputs = .engine :: [.reset] ∧
    decodeTableWord 32 0x04048C00 = some (.madd 0 1 2 3) := by decide

theorem witness_IdleKeepsState : idle.pending = none ∧ idle.inputs = [] := by decide

/-- MINV with a zero modulus ends with code 10. -/
theorem witness_ErrorLeavesNoPartialOutput : ∃ t, exec (.minv 0 1 2) base32 = .next t ∧ t.err ≠ 0 :=
  ⟨base32.raise .zeroModulus, rfl, by decide⟩

theorem witness_CompletionCodesPerCommand : midRsaw.PhaseExact ∧ ∃ t, exec .rsaw midRsaw = .next t :=
  ⟨show importInt _ = _ by decide +kernel, _, rfl⟩

theorem witness_AcceptedCommandsComplete :
    ∀ a, Input.host a ∈ [Input.host (.write 0x40020 8 0x04048C00), .port, .host (.read 0x7FFFF 1), .reset] →
      inWindow base32.cfg a.addr = true := by
  intro a h
  simp only [List.mem_cons, Input.host.injEq, List.not_mem_nil, or_false, reduceCtorEq, false_or] at h
  rcases h with rfl | rfl <;> decide

theorem witness_RegisterFrame : (∃ t, exec (.xgcd 13 1 2) idle = .next t) ∧ (0 : Reg) ∉ (Instr.xgcd 13 1 2).dests :=
  ⟨⟨_, rfl⟩, by decide⟩

/-- A command that stores nothing; RSAW just above MBUF; ZEROIZE just above KBUF. -/
theorem witness_MemoryFrame :
    (∃ t, exec (.madd 0 1 2 3) idle = .next t) ∧ (∃ t, exec .rsaw midRsaw = .next t) ∧ (∃ t, exec .zeroize idle = .next t) ∧
    ¬ Instr.storesAt idle.cfg 0x10000 (.madd 0 1 2 3) ∧ ¬ Instr.storesAt midRsaw.cfg 0x10004 .rsaw ∧
    ¬ Instr.storesAt idle.cfg 0x20004 .zeroize := by
  refine ⟨⟨_, rfl⟩, ⟨_, rfl⟩, ⟨_, rfl⟩, id, ?_, show ¬ bufferOffset idle.cfg 0x20004 = true by decide⟩
  rintro ⟨j, hj, h⟩
  have hw : j < 4 := hj
  simp only [Buf.base] at h
  omega

theorem witness_ControlFrame : (∃ t, exec (.gcd 0 1 2) idle = .next t) ∧ Instr.gcd 0 1 2 ≠ .rsaw := ⟨⟨_, rfl⟩, by decide⟩

theorem witness_WindowDecoding :
    (0x3FFFF : Nat) < 0x40000 ∧ (0x3FFFF : Nat) < base32.cfg.base ∧ base32.cfg.base + 0x40000 ≤ 0x80000 := by decide

/-- Boundary offsets: 0, the first and last register, the first and last reserved, the last of the page, and illegal ones. -/
theorem witness_RegisterPageAccess :
    (∀ off ∈ [0x000, 0x020, 0x028, 0x0F8, 0x100, 0x178, 0x180, 0xFFF8], off < 0x10000 ∧ off % 8 = 0) ∧
    (0xFFFF : Nat) < 0x10000 ∧ (0xFFFF : Nat) % 8 ≠ 0 ∧ (4 : Nat) ≠ 8 := by decide

/-- Boundary offsets for W = 4: byte 3, padding byte 4, the last byte of the window; idle, busy, canonical memory. -/
theorem witness_BufferRegionAccess :
    (∀ off ∈ [0x10000, 0x10003, 0x10004, 0x3FFFF], 0x10000 ≤ off ∧ off < 0x40000) ∧ 0x10003 % 0x10000 < base32.cfg.width ∧
    base32.cfg.width ≤ 0x10004 % 0x10000 ∧ idle.busy = false ∧ busyMadd.busy = true ∧ Memory.wf midRsaw.mem = true ∧
    (8 : Nat) ≠ 1 := by decide

theorem witness_BusErrorHasNoEffect :
    (idle.busRead 0x018 4).resp = .busError ∧ (idle.busWrite 0x10000 8 0).resp = .busError := by decide

theorem witness_AccessesWhileBusy :
    busyMadd.busy = true ∧ 3 < busyMadd.cfg.width ∧ (3 : Nat) < 0x10000 := by decide

theorem witness_ReadsAndIdempotentWrites : Memory.wf midRsaw.mem = true ∧ (0x30003 : Nat) ≠ 0x020 := by decide

theorem witness_ReservedOffsets :
    (∀ off ∈ [0x028, 0x0F8, 0x180, 0xFFF8],
      off % 8 = 0 ∧ ((0x028 ≤ off ∧ off < 0x100) ∨ (0x180 ≤ off ∧ off < 0x10000))) ∧
    0x10000 ≤ 0x30004 ∧ 0x30004 < 0x40000 ∧ base32.cfg.width ≤ 0x30004 % 0x10000 := by decide

theorem witness_CtrlRegister : ∃ t, engineTurn busyMadd = .next t := ⟨_, rfl⟩

/-- A completion, a STATUS write, an acceptance and a CTRL write; then steps that raise IRQ (a completion; IE set while
DONE = 1) and one that drops it (a STATUS write with bit 1). -/
theorem witness_InterruptLevel :
    busyMadd.pending.isSome = true ∧ (∃ t, engineTurn busyMadd = .next t) ∧ (2 : Word).getLsbD 1 = true ∧ idle.busy = false ∧
    (busyMadd.finish .none).done = true ∧
    (∃ t, step { busyMadd with ie := true } = .next t ∧ busyMadd.done = false ∧ t.irq = true) ∧
    (∃ t, step { idle with done := true, inputs := [.host (.write 0x40010 8 1)] } = .next t ∧ t.irq = true) ∧
    ∃ t, step { idle with done := true, ie := true, inputs := [.host (.write 0x40018 8 2)] } = .next t ∧ t.irq = false :=
  ⟨by decide, ⟨_, rfl⟩, by decide, by decide, by decide, ⟨_, rfl, by decide, by decide⟩, ⟨_, rfl, by decide⟩, ⟨_, rfl, by decide⟩⟩

/-- A discarded write sets BUSYERR; a STATUS write with bit 2 clears it. -/
theorem witness_BusyErrSetAndCleared :
    (∃ t, step { busyMadd with inputs := [.host (.write 0x40108 8 9)] } = .next t ∧ t.busyerr = true) ∧
    busyMadd.busyerr = false ∧ slotOf busyMadd.cfg 0x108 8 = some (.reg 1) ∧ slotOf busyMadd.cfg 0x20003 1 = some (.byte .k 3) ∧
    ∃ t, step { busyMadd with busyerr := true, inputs := [.host (.write 0x40018 8 4)] } = .next t ∧ t.busyerr = false :=
  ⟨⟨_, rfl, by decide⟩, by decide, by decide, by decide, ⟨_, rfl, by decide⟩⟩

theorem witness_BusyRisesAndFalls :
    (∃ t, step { idle with inputs := [.host (.write 0x40020 8 0x34000000)] } = .next t ∧ t.busy = true) ∧ idle.busy = false ∧
    (∃ t, step busyMadd = .next t ∧ t.busy = false) ∧ busyMadd.busy = true :=
  ⟨⟨_, rfl, by decide⟩, by decide, ⟨_, rfl, by decide⟩, by decide⟩

/-- DONE rises at a completion and falls at an acceptance, a STATUS write with bit 1 and reset; a CTRL write leaves it. -/
theorem witness_DoneRisesAndFalls :
    (∃ t, step busyMadd = .next t ∧ busyMadd.done = false ∧ t.done = true) ∧
    (∃ t, step { idle with done := true, inputs := [.host (.write 0x40020 8 0)] } = .next t ∧ t.done = false) ∧
    (∃ t, step { idle with done := true, inputs := [.host (.write 0x40018 8 2)] } = .next t ∧ t.done = false) ∧
    (∃ t, step { idle with done := true, inputs := [.reset] } = .next t ∧ t.done = false) ∧
    ∃ t, step { idle with done := true, inputs := [.host (.write 0x40010 8 2)] } = .next t ∧ t.done = true :=
  ⟨⟨_, rfl, by decide, by decide⟩, ⟨_, rfl, by decide⟩, ⟨_, rfl, by decide⟩, ⟨_, rfl, by decide⟩, ⟨_, rfl, by decide⟩⟩

/-- ERR changes at an illegal command's completion, at ZEROIZE's, at a legal one's, at an acceptance and at reset. -/
theorem witness_ErrChanges :
    (∃ t, step (idle.accept 0x17848000) = .next t ∧ t.err ≠ (idle.accept 0x17848000).err) ∧
    decode 0x17848000 = .error .rdBound ∧ (∃ t, step (idle.accept 0xFC000000) = .next t) ∧ decode 0xFC000000 = .ok .zeroize ∧
    (∃ t, step busyMadd = .next t) ∧ decode 0x04048C00 = .ok (.madd 0 1 2 3) ∧ busyMadd.PhaseExact ∧
    (∃ t, step { idle with err := 9, inputs := [.host (.write 0x40020 8 0x04048C00)] } = .next t ∧ t.err ≠ 9) ∧
    ∃ t, step { idle with err := 9, inputs := [.reset] } = .next t ∧ t.err ≠ 9 :=
  ⟨⟨_, rfl, by decide⟩, by decide, ⟨_, rfl⟩, by decide, ⟨_, rfl⟩, by decide, trivial, ⟨_, rfl, by decide⟩, ⟨_, rfl, by decide⟩⟩

/-- A register changed by the host, by a command and by reset. -/
theorem witness_OnlyTheseWriteRegisters :
    (∃ t, step { idle with inputs := [.host (.write 0x40178 8 9)] } = .next t ∧ t.reg 15 ≠ idle.reg 15) ∧
    (∃ t, step busyMadd = .next t ∧ t.reg 0 ≠ busyMadd.reg 0) ∧
    ∃ t, step { idle with inputs := [.reset] } = .next t ∧ t.reg 1 ≠ idle.reg 1 :=
  ⟨⟨_, rfl, by decide⟩, ⟨_, rfl, by decide⟩, ⟨_, rfl, by decide⟩⟩

/-- A buffer byte changed by the host, by RSAW and by reset. -/
theorem witness_OnlyTheseWriteBuffers :
    (∃ t, step { idle with inputs := [.host (.write 0x70003 1 9)] } = .next t ∧
      Memory.read t.mem 0x30003 ≠ Memory.read idle.mem 0x30003) ∧
    (∃ t, step busyRsaw = .next t ∧ Memory.read t.mem 0x10003 ≠ Memory.read busyRsaw.mem 0x10003) ∧
    ∃ t, step { busyRsaw with inputs := [.reset] } = .next t ∧
      Memory.read t.mem 0x10003 ≠ Memory.read busyRsaw.mem 0x10003 :=
  ⟨⟨_, rfl, by decide⟩, ⟨_, rfl, by decide +kernel⟩, ⟨_, rfl, by decide +kernel⟩⟩

theorem witness_BigEndianImportExport :
    (3 : Nat) < 4 ∧ (2790 : Nat) < 256 ^ 4 ∧ Memory.wf midRsaw.mem = true ∧ 3 < midRsaw.cfg.width := by decide

theorem witness_ZeroModulusIsNativeWidth : idle.reg 9 = 0 := by decide

theorem witness_PowerOfSumIsProduct : 1 ≤ 1 := by decide

theorem witness_XgcdResult : (13 : Reg).val ≤ 13 ∧ 13 < (14 : Reg).val := by decide

/-- A zero modulus, an invertible operand and one that is not. -/
theorem witness_MinvResult :
    idle.reg 9 = 0 ∧ idle.reg 3 ≠ 0 ∧ Nat.gcd (idle.reg 1).toNat (idle.reg 3).toNat = 1 ∧
    Nat.gcd (idle.reg 0).toNat (idle.reg 3).toNat ≠ 1 := by decide +kernel

theorem witness_MrfactResult :
    14 < (15 : Reg).val ∧ (14 : Reg).val ≤ 14 ∧ (withRegs [(1, 1)]).reg 1 = 1 ∧ idle.reg 1 ≠ 1 := by decide

theorem witness_MrwitResult :
    64 ≤ ((withRegs [(1, 64)]).reg 1).toNat ∧ ((withRegs [(1, 63)]).reg 1).toNat < 64 := by decide

theorem witness_MrtestAcceptsEveryPrime : Nat.Prime (idle.reg 1).toNat := by
  have h : (idle.reg 1).toNat = 5 := by decide
  rw [h]
  norm_num

/-- The boundary m = n passes, m = n + 2 does not. -/
theorem witness_RsaNarrowResult : (idle.reg 1).toNat ≤ (idle.reg 1).toNat ∧ (idle.reg 1).toNat < (idle.reg 3).toNat := by
  decide

/-- DOC's key: n = 61 · 53, e = 17, d = 413, lcm(60, 52) = 780, m = 65; the cipher text overwrites the modulus register, and
the second command finds the three values in other registers. -/
theorem witness_RsaNarrowRoundTrip :
    ∃ s t t' : State, Nat.Prime 61 ∧ Nat.Prime 53 ∧ 61 ≠ 53 ∧ (s.reg 3).toNat = 61 * 53 ∧ (s.reg 1).toNat < 61 * 53 ∧
      (s.reg 2).toNat * 413 ≡ 1 [MOD Nat.lcm (61 - 1) (53 - 1)] ∧ exec (.rsa64 3 1 2 3) s = .next t ∧
      t'.reg 9 = t.reg 3 ∧ (t'.reg 10).toNat = 413 ∧ t'.reg 11 = s.reg 3 :=
  ⟨withRegs [(1, 65), (2, 17), (3, 3233)], _, withRegs [(9, 2790), (10, 413), (11, 3233)], by norm_num, by norm_num, by decide,
    by decide, by decide, by decide +kernel, rfl, by decide +kernel, by decide, by decide⟩

theorem witness_RsawResult :
    busyRsaw.rsaw = .idle ∧ busyRsaw.bigReq = none ∧ Memory.wf busyRsaw.mem = true ∧
    (∀ i < 6, busyRsaw.replyAt i = true) ∧ busyRsaw.bufInt .m < busyRsaw.bufInt .n :=
  ⟨by decide, by decide, by decide, fun i hi => by interval_cases i <;> rfl, by decide +kernel⟩

/-- M = N with every reply ok; the first reply fail; the last reply fail with M < N. -/
theorem witness_RsawErrors :
    let same := withBufs [0, 0, 0x0C, 0xA1] [1] [0, 0, 0x0C, 0xA1] (List.replicate 4 true)
    let first := withBufs [0, 0, 0x0C, 0xA1] [1] [0, 0, 0x0C, 0xA1] [false]
    let last := withBufs [0, 0, 0, 0x41] [1] [0, 0, 0x0C, 0xA1] [true, true, true, true, true, false]
    (same.rsaw = .idle ∧ same.bigReq = none ∧ (∀ i < 4, same.replyAt i = true) ∧ same.bufInt .n ≤ same.bufInt .m) ∧
    (first.rsaw = .idle ∧ first.bigReq = none ∧ first.replyAt 0 = false) ∧
    (last.rsaw = .idle ∧ last.bigReq = none ∧ (∀ k < 5, last.replyAt k = true) ∧ last.replyAt 5 = false ∧
      last.bufInt .m < last.bufInt .n) :=
  ⟨⟨rfl, rfl, fun i hi => by interval_cases i <;> rfl, by decide +kernel⟩, ⟨rfl, rfl, rfl⟩,
    ⟨rfl, rfl, fun i hi => by interval_cases i <;> rfl, rfl, by decide +kernel⟩⟩

theorem witness_RsawByRequestsIsRsaw :
    ∃ s : State, s.rsawInFlight = true ∧ s.inputs = Spec.portSchedule 6 ++ .engine :: [.reset] :=
  ⟨{ busyRsaw with inputs := Spec.portSchedule 6 ++ .engine :: [.reset] }, by decide, rfl⟩

/-- An RSAW whose first import has been answered meets the invariant. -/
theorem witness_midRsaw_inv : midRsaw.Inv where
  cfgLegal := by decide
  memWf := by decide +kernel
  memInBuffers := by decide +kernel
  busyIffPending := by decide +kernel
  requestOnlyRsaw := by decide +kernel
  requestIsNext := by decide +kernel
  phaseOnlyRsaw := fun _ => by decide +kernel
  phaseExact := show importInt _ = _ by decide +kernel
  busyNotDone := by decide +kernel
  busyNoErr := by decide +kernel
  errProduced := by decide +kernel
  cmdIsPending := fun v h => by
    have h' : some (0x34000000 : Word) = some v := h
    injection h' with h'
    subst h'
    decide +kernel

/-- Every reply still to come is ok; and the same progress with the next reply a fail. -/
theorem witness_RsawCompletesRightFromAnyProgress :
    midRsaw.Inv ∧ midRsaw.rsawInFlight = true ∧ (∃ t, engineTurn midRsaw = .next t) ∧
    Spec.ReplyFails { midRsaw with replies := [false] } :=
  ⟨witness_midRsaw_inv, by decide +kernel, ⟨_, rfl⟩, .inr ⟨0, by decide +kernel, by decide +kernel, by decide +kernel⟩⟩

/-- A run that has ended although a port turn and a reset wait. -/
def ended : State := { idle with inputs := [.port, .reset] }

theorem witness_ended_inv : ended.Inv where
  cfgLegal := by decide
  memWf := by decide
  memInBuffers := by decide
  busyIffPending := by decide
  requestOnlyRsaw := by decide
  requestIsNext := by decide
  phaseOnlyRsaw := by decide
  phaseExact := trivial
  busyNotDone := by decide
  busyNoErr := by decide
  errProduced := by decide
  cmdIsPending := fun _ h => nomatch (h : none = some _)

/-- A busy MAE with one host step waiting; a run that has ended; its next step. -/
theorem witness_HostRunEnds :
    ({ midRsaw with inputs := [.host (.read 0x40018 8)] } : State).Inv ∧ inWindow midRsaw.cfg 0x40018 = true ∧
    ended.Inv ∧ ended.RunEnded ∧ Spec.turn ended ≠ .reset ∧ ∃ t, step ended = .next t :=
  have h := witness_midRsaw_inv
  ⟨⟨h.cfgLegal, h.memWf, h.memInBuffers, h.busyIffPending, h.requestOnlyRsaw, h.requestIsNext, h.phaseOnlyRsaw, h.phaseExact,
    h.busyNotDone, h.busyNoErr, h.errProduced, h.cmdIsPending⟩, by decide, witness_ended_inv, ⟨by decide, by decide⟩, by decide,
    ⟨_, rfl⟩⟩

/-- Byte 0 of MBUF is the most significant (R54): 01 02 03 04 is 0x01020304. -/
theorem test_buffer_value : (withBufs [1, 2, 3, 4] [] [] []).bufInt .m = 0x01020304 := by decide +kernel

theorem witness_ZeroizeResult : idle.cfg.Legal := by decide

theorem witness_ZeroizeErasesOperands :
    (∀ c ∈ midRsaw.mem, bufferOffset midRsaw.cfg c.1 = true) ∧
    ∀ c ∈ ([(0x20003, 1)] : Memory), bufferOffset midRsaw.cfg c.1 = true := by decide +kernel

theorem witness_ResetFromAnyState : ({ midRsaw with inputs := [.reset, .collab] } : State).inputs = .reset :: [.collab] := rfl

theorem witness_StepKeepsInvariant : midRsaw.Inv ∧ ∃ t, step midRsaw = .next t := ⟨witness_midRsaw_inv, _, rfl⟩

/-- Both ends of R6's range of KEYBITS. -/
theorem witness_ResetMeetsInvariant :
    Config.Legal { keyBits := 8, base := 0 } ∧ Config.Legal { keyBits := 524288, base := 0xC0000 } ∧
    ¬ Config.Legal { keyBits := 12, base := 0 } := by decide

end Sys2Proof.Tests
end

section
/-! The extended Euclidean iteration of R121: what every turn keeps, the result has; and the size of its coefficients. -/

namespace Sys2Proof.Machine

/-- What every turn of R121's loop keeps holds where the loop ends, with second remainder 0. -/
theorem xgcdLoop_keeps {Inv : Nat → Nat → Int → Int → Int → Int → Prop}
    (turn : ∀ r0 r1 s0 s1 t0 t1, r1 ≠ 0 → Inv r0 r1 s0 s1 t0 t1 →
      Inv r1 (r0 % r1) s1 (s0 - (r0 / r1 : Nat) * s1) t1 (t0 - (r0 / r1 : Nat) * t1))
    (fuel r0 r1 : Nat) (s0 s1 t0 t1 : Int) (hfuel : r1 ≤ fuel) (start : Inv r0 r1 s0 s1 t0 t1) :
    ∃ s t, Inv (xgcdLoop fuel r0 r1 s0 s1 t0 t1).d 0 (xgcdLoop fuel r0 r1 s0 s1 t0 t1).x s
      (xgcdLoop fuel r0 r1 s0 s1 t0 t1).y t := by
  induction fuel generalizing r0 r1 s0 s1 t0 t1 with
  | zero =>
    obtain rfl : r1 = 0 := by omega
    exact ⟨s1, t1, start⟩
  | succ fuel ih =>
    by_cases h : r1 = 0
    · subst h
      exact ⟨s1, t1, start⟩
    · have falls : r0 % r1 < r1 := Nat.mod_lt _ (Nat.pos_of_ne_zero h)
      have remainder : r0 - r0 / r1 * r1 = r0 % r1 := by rw [Nat.mod_eq_sub_div_mul]
      rw [xgcdLoop, if_neg h, remainder]
      exact ih _ _ _ _ _ _ (by omega) (turn _ _ _ _ _ _ h start)

/-- One column of coefficients, `u0` and `u1` beside the remainders `r0` and `r1`: while `r1` is not 0 both are small
against `B`, the operand that the column does not multiply. The sum is what keeps them so. -/
structure CoefficientBound (B r0 r1 : Nat) (u0 u1 : Int) : Prop where
  sum : u1.natAbs * r0 + u0.natAbs * r1 ≤ B
  current : 2 * u0.natAbs ≤ max 2 B
  next : r1 ≠ 0 → 2 * u1.natAbs ≤ max 2 B

/-- By the triangle inequality the sum does not grow in a turn; and where the new remainder is not 0 the divisor is at
least 2, so the sum holds the new coefficient at least twice. -/
theorem CoefficientBound.turn {B r0 r1 : Nat} {u0 u1 : Int} (h : CoefficientBound B r0 r1 u0 u1) (hr : r1 ≠ 0) :
    CoefficientBound B r1 (r0 % r1) u1 (u0 - (r0 / r1 : Nat) * u1) := by
  have triangle : (u0 - (r0 / r1 : Nat) * u1).natAbs ≤ u0.natAbs + r0 / r1 * u1.natAbs :=
    (Int.natAbs_sub_le ..).trans_eq (by rw [Int.natAbs_mul, Int.natAbs_natCast])
  have sum : (u0 - (r0 / r1 : Nat) * u1).natAbs * r1 + u1.natAbs * (r0 % r1) ≤ B :=
    calc (u0 - (r0 / r1 : Nat) * u1).natAbs * r1 + u1.natAbs * (r0 % r1)
        ≤ (u0.natAbs + r0 / r1 * u1.natAbs) * r1 + u1.natAbs * (r0 % r1) := by gcongr
      _ = u1.natAbs * (r1 * (r0 / r1) + r0 % r1) + u0.natAbs * r1 := by ring
      _ ≤ B := by rw [Nat.div_add_mod]; exact h.sum
  refine ⟨sum, h.next hr, fun remainder => ?_⟩
  have divisor : 2 ≤ r1 := by
    have := Nat.mod_lt r0 (Nat.pos_of_ne_zero hr)
    omega
  have half := Nat.mul_le_mul_left (u0 - (r0 / r1 : Nat) * u1).natAbs divisor
  omega

/-- R121's first variables: x starts as the column 1, 0 and y as the column 0, 1. -/
theorem CoefficientBound.start (a b : Nat) : CoefficientBound b a b 1 0 ∧ CoefficientBound a a b 0 1 :=
  ⟨⟨by simp, by simp, by simp⟩, ⟨by simp, by simp, by simp⟩⟩

/-- G1: a coefficient of xgcd(a, b) is at most half of the other operand, or 1 where that operand is below 2. -/
theorem xgcdInt_coefficients_le (a b : Nat) :
    2 * (xgcdInt a b).x.natAbs ≤ max 2 b ∧ 2 * (xgcdInt a b).y.natAbs ≤ max 2 a := by
  obtain ⟨_, _, hx, hy⟩ := xgcdLoop_keeps
    (Inv := fun r0 r1 s0 s1 t0 t1 => CoefficientBound b r0 r1 s0 s1 ∧ CoefficientBound a r0 r1 t0 t1)
    (fun _ _ _ _ _ _ hr h => ⟨h.1.turn hr, h.2.turn hr⟩) b a b 1 0 0 1 le_rfl (CoefficientBound.start a b)
  exact ⟨hx.current, hy.current⟩

/-- R7, R8: the two's complement reading recovers an integer that is at most half of a word. -/
theorem sint64_trunc64 (w : Word) (v : Int) (h : 2 * v.natAbs ≤ max 2 w.toNat) : sint64 (trunc64 v) = v := by
  have bound := w.isLt
  exact BitVec.toInt_ofInt_eq_self (by decide) (by omega) (by omega)

/-- Settles O40: every turn keeps the bound on both columns, so the coefficients stay below 2^63 in size. -/
theorem xgcdCoefficientsRecoverable : Obligations.XgcdCoefficientsRecoverable := by
  unfold Obligations.XgcdCoefficientsRecoverable
  intro a b
  obtain ⟨hx, hy⟩ := xgcdInt_coefficients_le a.toNat b.toNat
  exact ⟨sint64_trunc64 b _ hx, sint64_trunc64 a _ hy⟩

end Sys2Proof.Machine
end

section
/-! What a command's meaning can do, said once for every command: `Completes`, and the frames that follow from it. -/

namespace Sys2Proof

/-- A buffer has at most 0x10000 bytes, the size of its region (R6, R51). -/
theorem Config.Legal.width_le {c : Config} (h : c.Legal) : c.width ≤ 0x10000 := by
  obtain ⟨-, -, hmax, -⟩ := h
  simp only [Config.width]
  omega

/-- Every command can succeed. -/
theorem Instr.zero_mem_completionCodes (i : Instr) : 0 ∈ i.completionCodes := by
  cases i <;> simp [Instr.completionCodes]

/-- The codes of all commands together are those the MAE produces (R201, R202). -/
theorem Instr.completionCodes_subset (i : Instr) : i.completionCodes ⊆ [0, 3, 8, 9, 10, 11] := by
  cases i <;> simp [Instr.completionCodes]

end Sys2Proof

namespace Sys2Proof.Machine

/-- Byte j < W of a buffer is a buffer byte. -/
theorem bufferOffset_base_add {c : Config} {j : Nat} (b : Buf) (hj : j < c.width) (hl : j < 0x10000) :
    bufferOffset c (b.base + j) = true := by
  have hm : (b.base + j) % 0x10000 = j := by cases b <;> simp only [Buf.base] <;> omega
  cases b <;> simp [bufferOffset, hm, hj] <;> simp only [Buf.base] <;> omega

/-! ### RSAW -/

/-- The errors RSAW's working values can hold (R164, R205). -/
def RsawPhase.ErrorKnown (p : RsawPhase) : Prop := ∀ c, p = .failed c → c = .outOfRange ∨ c = .collabFail

theorem State.PhaseExact.errorKnown {s : State} (h : s.PhaseExact) : s.rsaw.ErrorKnown := by
  intro c hc
  simp only [State.PhaseExact, hc] at h
  exact h.symm.imp_left And.left

theorem RsawPhase.ErrorKnown.absorb {p : RsawPhase} (h : p.ErrorKnown) (a : Answer) : (p.absorb a).ErrorKnown := by
  intro c hc
  unfold RsawPhase.absorb at hc
  split at hc
  case h_9 => exact h c (by rwa [RsawPhase.failed.injEq] at hc ⊢)
  all_goals simp_all

theorem State.errorKnown_collabTurn {s : State} (h : s.rsaw.ErrorKnown) : s.collabTurn.rsaw.ErrorKnown := by
  cases hr : s.bigReq with
  | none => rwa [State.collabTurn_of_none hr]
  | some r =>
    rw [State.collabTurn_of_some hr]
    dsimp only
    split
    · exact h.absorb _
    · exact fun c hc => .inr (RsawPhase.failed.inj hc).symm

theorem State.errorKnown_converse {s : State} (n : Nat) (h : s.rsaw.ErrorKnown) : (State.converse n s).rsaw.ErrorKnown := by
  induction n generalizing s with
  | zero => exact h
  | succ n ih =>
    refine ih (State.errorKnown_collabTurn ?_)
    rw [State.send_eq]
    exact h

/-! ### Every command -/

/-- `t` is a state in which command `i`, run from `s`, can complete: the STATUS update of R181, and the frame of the rest. -/
structure Completes (i : Instr) (s t : State) : Prop where
  /-- Beside its writes and its code the command changes what R181 says, and for RSAW the draws. -/
  completed : ∃ q d, t = { s.completedWith t.x t.mem t.err with replies := q, draws := d } ∧
    (i ≠ .rsaw → q = s.replies ∧ d = s.draws)
  regFrame : ∀ r : Reg, r ∉ i.dests → t.reg r = s.reg r
  memFrame : ∀ off, ¬ Instr.storesAt s.cfg off i → Memory.read t.mem off = Memory.read s.mem off
  /-- An error writes nothing (R182). -/
  errorFrame : t.err ≠ 0 → t.x = s.x ∧ t.mem = s.mem
  code : s.rsaw.ErrorKnown → t.err ∈ i.completionCodes
  memWf : Memory.wf s.mem = true → Memory.wf t.mem = true
  memInBuffers : s.cfg.Legal → (∀ c ∈ s.mem, bufferOffset s.cfg c.1 = true) → ∀ c ∈ t.mem, bufferOffset s.cfg c.1 = true

/-- A command that ends with an error completes, whatever draws it has used. -/
theorem Completes.error {i : Instr} {s : State} {c : BitVec 8} {q : List Bool} {d : Nat}
    (hc : s.rsaw.ErrorKnown → c ∈ i.completionCodes) (hd : i ≠ .rsaw → q = s.replies ∧ d = s.draws) :
    Completes i s { s.completedWith s.x s.mem c with replies := q, draws := d } where
  completed := ⟨_, _, rfl, hd⟩
  regFrame _ _ := rfl
  memFrame _ _ := rfl
  errorFrame _ := ⟨rfl, rfl⟩
  code := hc
  memWf := id
  memInBuffers _ := id

/-- A command that raises one of its codes completes. -/
theorem Completes.raise {i : Instr} {c : ErrCode} (s : State) (hc : c.code ∈ i.completionCodes) :
    Completes i s (s.raise c) :=
  .error (fun _ => hc) fun _ => ⟨rfl, rfl⟩

/-- A command that writes registers among its destinations completes. -/
theorem Completes.regs {i : Instr} {s u : State} (hu : u.finish .none = s.completedWith u.x s.mem 0)
    (hr : ∀ r : Reg, r ∉ i.dests → u.reg r = s.reg r) : Completes i s (u.finish .none) := by
  rw [hu]
  exact {
    completed := ⟨_, _, rfl, fun _ => ⟨rfl, rfl⟩⟩
    regFrame := hr
    memFrame := fun _ _ => rfl
    errorFrame := fun h => absurd rfl h
    code := fun _ => i.zero_mem_completionCodes
    memWf := id
    memInBuffers := fun _ => id }

/-- A command with the one destination rd, written by `complete(x[rd] <- v)`, completes. -/
theorem Completes.reg {i : Instr} {rd : Reg} (hi : i.dests = [rd]) (s : State) (v : Word) :
    Completes i s (s.completeReg rd v) :=
  .regs rfl fun r hr => s.reg_setReg_of_ne rd r v (by simpa [hi] using hr)

/-- A command that stores MBUF as RSAW does completes, whatever draws it has used. -/
theorem Completes.storeMbuf (s : State) (bytes : List Byte) (q : List Bool) (d : Nat) :
    Completes .rsaw s
      { s.completedWith s.x (s.setBuf .m bytes).mem 0 with replies := q, draws := d } where
  completed := ⟨_, _, rfl, fun h => absurd rfl h⟩
  regFrame _ _ := rfl
  memFrame off hoff := by
    have hlen := List.length_take_le s.cfg.width bytes
    refine Memory.read_writeList_outside _ _ _ _ ?_
    by_contra hin
    exact hoff ⟨off - Buf.base .m, by omega, by omega⟩
  errorFrame h := absurd rfl h
  code _ := Instr.zero_mem_completionCodes _
  memWf h := Memory.wf_writeList h _ _
  memInBuffers legal h c hc := by
    obtain ⟨hlo, hhi⟩ | hc := Memory.mem_writeList hc
    · have hlen := List.length_take_le s.cfg.width bytes
      have hW := legal.width_le
      rw [← Nat.add_sub_cancel' hlo]
      exact bufferOffset_base_add .m (by omega) (by omega)
    · exact h c hc

/-- RSAW completes (R164). -/
theorem Completes.rsaw (s : State) : Completes .rsaw s (State.converse 6 s).rsawComplete := by
  have known := State.errorKnown_converse (s := s) 6
  have hu := State.converse_eq 6 s
  generalize State.converse 6 s = u at known hu
  obtain ⟨bytes, -, e⟩ | ⟨c, e, hc⟩ := u.rsawComplete_cases <;> rw [e]
  · rw [hu]
    exact .storeMbuf s bytes _ _
  · have code : s.rsaw.ErrorKnown → c.code ∈ Instr.rsaw.completionCodes := by
      intro h
      obtain rfl | rfl := hc.elim (known h c) .inr <;> decide
    rw [hu]
    exact .error code fun h => absurd rfl h

/-- ZEROIZE completes (R184). -/
theorem Completes.zeroize (s : State) : Completes .zeroize s (s.zeroed.finish .none) where
  completed := ⟨_, _, rfl, fun _ => ⟨rfl, rfl⟩⟩
  regFrame r hr := absurd (List.mem_finRange r) hr
  memFrame off hoff := by
    have hoff : bufferOffset s.cfg off = false := by simpa [Instr.storesAt] using hoff
    simpa [hoff] using Memory.read_filter s.mem (fun a => !bufferOffset s.cfg a) off
  errorFrame h := absurd rfl h
  code _ := Instr.zero_mem_completionCodes _
  memWf h := Memory.wf_filter h _
  memInBuffers _ h c hc := h c (List.mem_of_mem_filter hc)

/-- Everything a command's meaning can do. -/
theorem exec_next {i : Instr} {s t : State} (h : exec i s = .next t) : Completes i s t := by
  cases i with
  | madd | maddNw | mmul | mmulNw | mpow | mpowNw | gcd | mrtest =>
    injection h with h
    exact h ▸ .reg rfl s _
  | xgcd rd ra rb =>
    simp only [exec, execXgcd] at h
    split at h <;> injection h with h <;> rw [← h]
    · refine .regs rfl fun r hr => ?_
      simp only [Instr.dests, List.mem_cons, List.not_mem_nil, or_false, not_or] at hr
      obtain ⟨h0, h1, h2⟩ := hr
      rw [State.reg_setReg_of_ne _ _ _ _ h2, State.reg_setReg_of_ne _ _ _ _ h1, State.reg_setReg_of_ne _ _ _ _ h0]
    · exact .raise s (by simp [Instr.completionCodes, ErrCode.code])
  | minv rd ra rm =>
    simp only [exec, execMinv] at h
    split at h <;> injection h with h <;> rw [← h]
    · exact .raise s (by simp [Instr.completionCodes, ErrCode.code])
    · exact .reg rfl s _
  | mrfact rd rn =>
    simp only [exec, execMrfact] at h
    split at h
    · split at h <;> injection h with h <;> rw [← h]
      · refine .regs rfl fun r hr => ?_
        simp only [Instr.dests, List.mem_cons, List.not_mem_nil, or_false, not_or] at hr
        obtain ⟨h0, h1⟩ := hr
        rw [State.reg_setReg_of_ne _ _ _ _ h1, State.reg_setReg_of_ne _ _ _ _ h0]
      · exact .raise s (by simp [Instr.completionCodes, ErrCode.code])
    · injection h with h
      rw [← h]
      exact .raise s (by simp [Instr.completionCodes, ErrCode.code])
  | mrwit rd rn ra rk rq =>
    simp only [exec, execMrwit] at h
    split at h <;> injection h with h <;> rw [← h]
    · exact .raise s (by simp [Instr.completionCodes, ErrCode.code])
    · exact .reg rfl s _
  | rsa64 rd rm rk rn =>
    simp only [exec, execRsa64] at h
    split at h <;> injection h with h <;> rw [← h]
    · exact .raise s (by simp [Instr.completionCodes, ErrCode.code])
    · exact .reg rfl s _
  | rsaw =>
    injection h with h
    exact h ▸ .rsaw s
  | zeroize =>
    injection h with h
    exact h ▸ .zeroize s

section completesFields
variable {i : Instr} {s t : State}

theorem Completes.busy (h : Completes i s t) : t.busy = false := by
  obtain ⟨_, _, ht, -⟩ := h.completed
  rw [ht]; rfl

theorem Completes.done (h : Completes i s t) : t.done = true := by
  obtain ⟨_, _, ht, -⟩ := h.completed
  rw [ht]; rfl

theorem Completes.busyerr (h : Completes i s t) : t.busyerr = s.busyerr := by
  obtain ⟨_, _, ht, -⟩ := h.completed
  rw [ht]; rfl

theorem Completes.ie (h : Completes i s t) : t.ie = s.ie := by
  obtain ⟨_, _, ht, -⟩ := h.completed
  rw [ht]; rfl

end completesFields

/-- Settles O13: no arm of exec writes a register but its destinations. -/
theorem registerFrame : Obligations.RegisterFrame := by
  unfold Obligations.RegisterFrame
  intro i s t h
  exact (exec_next h).regFrame

/-- Settles O14: only RSAW and ZEROIZE store, each at its own offsets. -/
theorem memoryFrame : Obligations.MemoryFrame := by
  unfold Obligations.MemoryFrame
  intro i s t h
  exact (exec_next h).memFrame

/-- Settles O15: the completion update touches none of these fields, and only RSAW's conversation uses draws. -/
theorem controlFrame : Obligations.ControlFrame := by
  unfold Obligations.ControlFrame
  intro i s t h
  obtain ⟨q, d, ht, hdraws⟩ := (exec_next h).completed
  rw [ht]
  exact ⟨rfl, rfl, rfl, rfl, rfl, rfl, hdraws⟩

end Sys2Proof.Machine
end

section
/-! What one step can do to the state, one constructor for each effect, with the address of every host write. -/

namespace Sys2Proof.Machine

/-- A port turn changes the outstanding request only (R160). -/
theorem State.portTurn_eq (s : State) : s.portTurn = { s with bigReq := s.portTurn.bigReq } := by
  unfold State.portTurn
  split
  · exact s.send_eq
  · rfl

section portTurnFields
variable (s : State)

@[simp] theorem State.portTurn_cfg : s.portTurn.cfg = s.cfg := by rw [s.portTurn_eq]
@[simp] theorem State.portTurn_x : s.portTurn.x = s.x := by rw [s.portTurn_eq]
@[simp] theorem State.portTurn_mem : s.portTurn.mem = s.mem := by rw [s.portTurn_eq]
@[simp] theorem State.portTurn_busy : s.portTurn.busy = s.busy := by rw [s.portTurn_eq]
@[simp] theorem State.portTurn_done : s.portTurn.done = s.done := by rw [s.portTurn_eq]
@[simp] theorem State.portTurn_busyerr : s.portTurn.busyerr = s.busyerr := by rw [s.portTurn_eq]
@[simp] theorem State.portTurn_err : s.portTurn.err = s.err := by rw [s.portTurn_eq]
@[simp] theorem State.portTurn_ie : s.portTurn.ie = s.ie := by rw [s.portTurn_eq]
@[simp] theorem State.portTurn_cmd : s.portTurn.cmd = s.cmd := by rw [s.portTurn_eq]
@[simp] theorem State.portTurn_pending : s.portTurn.pending = s.pending := by rw [s.portTurn_eq]
@[simp] theorem State.portTurn_inputs : s.portTurn.inputs = s.inputs := by rw [s.portTurn_eq]
@[simp] theorem State.portTurn_resp : s.portTurn.resp = s.resp := by rw [s.portTurn_eq]
@[simp] theorem State.portTurn_rsaw : s.portTurn.rsaw = s.rsaw := by rw [s.portTurn_eq]
@[simp] theorem State.portTurn_replies : s.portTurn.replies = s.replies := by rw [s.portTurn_eq]
@[simp] theorem State.portTurn_draws : s.portTurn.draws = s.draws := by rw [s.portTurn_eq]

end portTurnFields

section collabTurnFields
variable (s : State)

@[simp] theorem State.collabTurn_cfg : s.collabTurn.cfg = s.cfg := by rw [s.collabTurn_eq]
@[simp] theorem State.collabTurn_x : s.collabTurn.x = s.x := by rw [s.collabTurn_eq]
@[simp] theorem State.collabTurn_mem : s.collabTurn.mem = s.mem := by rw [s.collabTurn_eq]
@[simp] theorem State.collabTurn_busy : s.collabTurn.busy = s.busy := by rw [s.collabTurn_eq]
@[simp] theorem State.collabTurn_done : s.collabTurn.done = s.done := by rw [s.collabTurn_eq]
@[simp] theorem State.collabTurn_busyerr : s.collabTurn.busyerr = s.busyerr := by rw [s.collabTurn_eq]
@[simp] theorem State.collabTurn_err : s.collabTurn.err = s.err := by rw [s.collabTurn_eq]
@[simp] theorem State.collabTurn_ie : s.collabTurn.ie = s.ie := by rw [s.collabTurn_eq]
@[simp] theorem State.collabTurn_cmd : s.collabTurn.cmd = s.cmd := by rw [s.collabTurn_eq]
@[simp] theorem State.collabTurn_pending : s.collabTurn.pending = s.pending := by rw [s.collabTurn_eq]
@[simp] theorem State.collabTurn_inputs : s.collabTurn.inputs = s.inputs := by rw [s.collabTurn_eq]
@[simp] theorem State.collabTurn_resp : s.collabTurn.resp = s.resp := by rw [s.collabTurn_eq]

end collabTurnFields

/-- A step with its input known (log 2). -/
theorem step_of_turn {s t : State} {i : Input} (h : step s = .next t) (turn : Spec.turn s = i) :
    inputTurn i { s with inputs := s.inputs.tail } = .next t := by
  rwa [step_eq, turn] at h

/-- A host write at an offset of the window reaches the MAE there (R50). -/
theorem step_of_write {s t : State} {off size : Nat} {v : Word} (h : step s = .next t)
    (turn : Spec.turn s = .host (.write (s.cfg.base + off) size v)) :
    t = State.busWrite { s with inputs := s.inputs.tail } off size v := by
  obtain ⟨-, ⟨_, _, ha, -⟩ | ⟨_, _, _, ha, ht⟩⟩ := hostAccess_next (step_of_turn h turn)
  · simp at ha
  · obtain ⟨rfl, rfl, rfl⟩ := Access.write.inj ha
    rwa [Nat.add_sub_cancel_left] at ht

/-- What an access reaches, and how (R51 to R53). -/
theorem slotOf_eq_some {c : Config} {off size : Nat} {d : Slot} (h : slotOf c off size = some d) :
    (size = 8 ∧ off % 8 = 0 ∧ d = pageSlot off) ∨
      (0x10000 ≤ off ∧ size = 1 ∧
        (d = .padding ∨ (off % 0x10000 < c.width ∧ d = .byte (regionBuf (off / 0x10000)) (off % 0x10000)))) := by
  unfold slotOf at h
  split at h
  · split at h
    · rename_i hs
      exact .inl ⟨hs.1, hs.2, (Option.some.inj h).symm⟩
    · simp at h
  · split at h
    · split at h <;> simp_all
    · simp at h

/-- The register page holds registers at 0x100 + 8·i, and no buffer byte (R51). -/
theorem pageSlot_cases (off : Nat) :
    pageSlot off = .reg (Fin.ofNat 16 ((off - 0x100) / 8)) ∧ 0x100 ≤ off ∧ off < 0x180 ∨
      pageSlot off ∈ [.id, .cfg, .ctrl, .status, .cmd, .reserved] := by
  unfold pageSlot
  split
  case h_6 => split <;> simp_all
  all_goals simp

/-- Register Ri is reached at 0x100 + 8·i only, by 8 bytes (R20, R52). -/
theorem slotOf_eq_reg {c : Config} {off size : Nat} {r : Reg} (h : slotOf c off size = some (.reg r)) :
    off = 0x100 + 8 * r.val ∧ size = 8 := by
  obtain ⟨hs, haligned, hd⟩ | ⟨-, -, hd | ⟨-, hd⟩⟩ := slotOf_eq_some h
  · refine ⟨?_, hs⟩
    obtain ⟨hp, hlo, hhi⟩ | hp := pageSlot_cases off
    · obtain rfl := Slot.reg.inj (hd.trans hp)
      simp only [Fin.ofNat]
      omega
    · simp [← hd] at hp
  · simp at hd
  · simp at hd

/-- Inside the window a buffer byte is reached at its region's base + j only, by 1 byte (R33, R53). -/
theorem slotOf_eq_byte {c : Config} {off size : Nat} {b : Buf} {j : Nat} (h : slotOf c off size = some (.byte b j))
    (hoff : off < 0x40000) : off = b.base + j ∧ size = 1 ∧ j < c.width ∧ j < 0x10000 := by
  obtain ⟨-, -, hd⟩ | ⟨hlo, hs, hd | ⟨hj, hd⟩⟩ := slotOf_eq_some h
  · obtain ⟨hp, -⟩ | hp := pageSlot_cases off
    · simp [← hd] at hp
    · simp [← hd] at hp
  · simp at hd
  · obtain ⟨rfl, rfl⟩ := Slot.byte.inj hd
    have region : off / 0x10000 = 1 ∨ off / 0x10000 = 2 ∨ off / 0x10000 = 3 := by omega
    have base : (regionBuf (off / 0x10000)).base = off / 0x10000 * 0x10000 := by
      obtain hr | hr | hr := region <;> rw [hr] <;> rfl
    exact ⟨by omega, hs, hj, by omega⟩

theorem inWindow_iff (c : Config) (addr : Nat) :
    inWindow c addr = true ↔ c.base ≤ addr ∧ addr < c.base + 0x40000 := by
  unfold inWindow Config.windowSize
  rw [Bool.and_eq_true, decide_eq_true_iff, decide_eq_true_iff]

/-- Everything a step can do. -/
inductive StepEffect (s t : State) : Prop
  /-- A host access that changes nothing of the MAE: a read, a write to what ignores it, a bus error. -/
  | access (a : Access) (d : Nat) (r : Response) (turn : Spec.turn s = .host a)
      (ht : t = { s with inputs := s.inputs.tail, draws := d, resp := r })
  | writeCtrl (v : Word) (turn : Spec.turn s = .host (.write (s.cfg.base + 0x010) 8 v))
      (ht : t = { s.writeCtrl v with inputs := s.inputs.tail, resp := .writeOkay })
  | writeStatus (v : Word) (turn : Spec.turn s = .host (.write (s.cfg.base + 0x018) 8 v))
      (ht : t = { s.writeStatus v with inputs := s.inputs.tail, resp := .writeOkay })
  | discard (addr size : Nat) (v : Word) (d : Slot) (busy : s.busy = true)
      (turn : Spec.turn s = .host (.write addr size v)) (window : inWindow s.cfg addr = true)
      (slot : slotOf s.cfg (addr - s.cfg.base) size = some d) (operand : d = .cmd ∨ d.operand = true)
      (ht : t = { s.discardWrite with inputs := s.inputs.tail, resp := .writeOkay })
  | accept (v : Word) (idle : s.busy = false) (turn : Spec.turn s = .host (.write (s.cfg.base + 0x020) 8 v))
      (ht : t = { s.accept v with inputs := s.inputs.tail, resp := .writeOkay })
  | writeReg (r : Reg) (v : Word) (idle : s.busy = false)
      (turn : Spec.turn s = .host (.write (s.cfg.base + 0x100 + 8 * r.val) 8 v))
      (ht : t = { s.setReg r v with inputs := s.inputs.tail, resp := .writeOkay })
  | writeByte (b : Buf) (j : Nat) (v : Word) (idle : s.busy = false) (width : j < s.cfg.width) (region : j < 0x10000)
      (turn : Spec.turn s = .host (.write (s.cfg.base + (b.base + j)) 1 v))
      (ht : t = { s.setBufByte b j (v.setWidth 8) with inputs := s.inputs.tail, resp := .writeOkay })
  /-- The engine's turn with no command in flight (R216). -/
  | idle (turn : Spec.turn s = .engine) (pending : s.pending = none) (ht : t = { s with inputs := s.inputs.tail })
  /-- The engine completes an illegal command (R87). -/
  | illegal (v : Word) (e : Illegal) (turn : Spec.turn s = .engine) (pending : s.pending = some v)
      (decoded : decode v = .error e) (ht : t = { s.completedWith s.x s.mem 8 with inputs := s.inputs.tail })
  /-- The engine completes a command (R181). -/
  | command (v : Word) (i : Instr) (turn : Spec.turn s = .engine) (pending : s.pending = some v)
      (decoded : decode v = .ok i) (completes : Completes i { s with inputs := s.inputs.tail } t)
  | port (turn : Spec.turn s = .port) (ht : t = State.portTurn { s with inputs := s.inputs.tail })
  | collab (turn : Spec.turn s = .collab) (ht : t = State.collabTurn { s with inputs := s.inputs.tail })
  | reset (turn : Spec.turn s = .reset) (ht : t = State.resetInput { s with inputs := s.inputs.tail })

theorem stepEffect_of_hostAccess {s t : State} {a : Access} (turn : Spec.turn s = .host a)
    (h : hostAccess a { s with inputs := s.inputs.tail } = .next t) : StepEffect s t := by
  have window : s.cfg.base ≤ a.addr ∧ a.addr < s.cfg.base + 0x40000 := (inWindow_iff _ _).mp (hostAccess_next h).1
  obtain ⟨d, r, ht⟩ | ⟨v, ha, ht⟩ | ⟨v, ha, ht⟩ | ⟨hb, addr, size, v, d, ha, hw, hd, hop, ht⟩ | ⟨hb, v, ha, ht⟩ |
    ⟨hb, addr, size, v, r, rfl, hd, ht⟩ | ⟨hb, addr, size, v, b, j, rfl, hd, ht⟩ := hostAccess_effect h
  · exact .access a d r turn ht
  · exact .writeCtrl v (ha ▸ turn) ht
  · exact .writeStatus v (ha ▸ turn) ht
  · exact .discard addr size v d hb (ha ▸ turn) hw hd hop ht
  · exact .accept v hb (ha ▸ turn) ht
  · obtain ⟨hoff, rfl⟩ := slotOf_eq_reg hd
    have haddr : addr = s.cfg.base + 0x100 + 8 * r.val := by simp only [Access.addr] at window hoff; omega
    exact .writeReg r v hb (haddr ▸ turn) ht
  · simp only [Access.addr] at window
    obtain ⟨hoff, rfl, hj, hl⟩ := slotOf_eq_byte hd (by dsimp only; omega)
    have haddr : addr = s.cfg.base + (b.base + j) := by dsimp only at hoff; omega
    exact .writeByte b j v hb hj hl (haddr ▸ turn) ht

theorem stepEffect_of_engineTurn {s t : State} (turn : Spec.turn s = .engine)
    (h : engineTurn { s with inputs := s.inputs.tail } = .next t) : StepEffect s t := by
  obtain ⟨hp, ht⟩ | ⟨v, hp, ⟨e, hd, ht⟩ | ⟨i, hd, he⟩⟩ := engineTurn_next h
  · exact .idle turn hp ht
  · exact .illegal v e turn hp hd ht
  · exact .command v i turn hp hd (exec_next he)

/-- Every step has one of the effects. -/
theorem step_effect {s t : State} (h : step s = .next t) : StepEffect s t := by
  obtain ⟨a, turn, h⟩ | ⟨turn, h⟩ | ⟨turn, h⟩ | ⟨turn, h⟩ | ⟨turn, h⟩ := step_next h
  · exact stepEffect_of_hostAccess turn h
  · exact stepEffect_of_engineTurn turn h
  · exact .port turn h
  · exact .collab turn h
  · exact .reset turn h

end Sys2Proof.Machine
end

section
/-! The registers STATUS and CTRL, and what changes each field of the state (10_state.md R21 to R33). -/

namespace Sys2Proof.Machine

/-- Settles O23: each bit of the word lies in one field's place; the write is that of the slot at 0x018. -/
theorem statusRegister : Obligations.StatusRegister := by
  unfold Obligations.StatusRegister
  refine ⟨fun s => ⟨?_, ?_, ?_, ?_, ?_, ?_⟩, fun s v => ?_, fun c => by simp [State.statusWord, State.resetWith]⟩
  · simp [State.statusWord]
  · simp [State.statusWord]
  · simp [State.statusWord]
  · ext i hi
    simp [State.statusWord]
    exact ⟨fun _ _ => by omega, fun _ _ _ => by omega⟩
  · ext i hi
    have h0 : 8 + i - 2 ≠ 0 := by omega
    simp [State.statusWord, h0, show 8 + i < 64 by omega]
    exact BitVec.getLsbD_eq_getElem hi
  · ext i hi
    simp [State.statusWord]
    exact ⟨fun _ _ _ => BitVec.getLsbD_of_ge _ _ (by omega), fun _ _ _ => by omega⟩
  · have hw : s.busWrite 0x018 8 v = { s.writeStatus v with resp := .writeOkay } := rfl
    have masked (a b : Bool) : (a && !b) = if b = true then false else a := by cases a <;> cases b <;> rfl
    rw [hw, State.writeStatus, masked, masked]

/-- Settles O24: the completion of a command keeps IE, and a port turn changes the request only. -/
theorem ctrlRegister : Obligations.CtrlRegister := by
  unfold Obligations.CtrlRegister
  refine ⟨fun s => ⟨?_, ?_⟩, fun s v => rfl, fun s t h => ?_, State.portTurn_ie, fun c => rfl⟩
  · simp [State.ctrlWord]
  · ext i hi
    simp [State.ctrlWord]
  · obtain ⟨-, rfl⟩ | ⟨v, -, ⟨e, -, rfl⟩ | ⟨i, -, he⟩⟩ := engineTurn_next h
    · rfl
    · rfl
    · exact (exec_next he).ie

/-- A write discarded because BUSY = 1 (R57). -/
theorem State.writeSlot_of_busy {s : State} (busy : s.busy = true) (v : Word) {d : Slot}
    (hd : d = .cmd ∨ d.operand = true) : s.writeSlot v d = s.discardWrite := by
  cases d <;> simp_all [State.writeSlot, Slot.operand]

/-- Settles O26: of the effects a step can have only the discarded write sets BUSYERR. -/
theorem busyErrSetAndCleared : Obligations.BusyErrSetAndCleared := by
  unfold Obligations.BusyErrSetAndCleared
  refine ⟨fun s off size v d busy slot hd => ?_, fun s t h => ?_⟩
  · simp [State.busWrite, slot, State.writeSlot_of_busy busy v hd]
  · cases step_effect h with
    | discard addr size v d busy turn window slot operand ht =>
      exact ⟨fun _ _ => ⟨busy, addr, size, v, d, turn, window, slot, operand⟩, fun _ h0 => by simp [ht] at h0⟩
    | writeStatus v turn ht =>
      refine ⟨fun h0 h1 => by simp [ht, h0] at h1, fun h1 h0 => .inr ⟨v, turn, ?_⟩⟩
      simpa [ht, h1] using h0
    | reset turn ht => exact ⟨fun _ h1 => by simp [ht] at h1, fun _ _ => .inl turn⟩
    | command v i _ _ _ completes => simp_all [completes.busyerr]
    | _ => simp_all

/-- Settles O27: of the effects a step can have acceptance raises BUSY, and a completion or reset lowers it. -/
theorem busyRisesAndFalls : Obligations.BusyRisesAndFalls := by
  unfold Obligations.BusyRisesAndFalls
  intro s t h
  cases step_effect h with
  | accept v idle turn ht =>
    rw [ht]
    exact ⟨fun _ _ => ⟨v, turn, rfl⟩, by simp⟩
  | illegal v e turn pending _ ht =>
    rw [ht]
    exact ⟨by simp, fun _ _ => .inr ⟨turn, by simp [pending], rfl⟩⟩
  | command v i turn pending _ completes =>
    exact ⟨by simp [completes.busy], fun _ _ => .inr ⟨turn, by simp [pending], completes.done⟩⟩
  | reset turn ht =>
    rw [ht]
    exact ⟨by simp, fun _ _ => .inl turn⟩
  | _ => simp_all

/-- Settles O28: a command that changes a register ends with ERR = 0, and the register is one of its destinations. -/
theorem onlyTheseWriteRegisters : Obligations.OnlyTheseWriteRegisters := by
  unfold Obligations.OnlyTheseWriteRegisters
  intro s t r h changed
  cases step_effect h with
  | writeReg r' v idle turn ht =>
    have hreg : t.reg r = if r = r' then v else s.reg r := by
      rw [ht]
      exact s.reg_setReg r' r v
    obtain rfl : r = r' := by
      by_contra hne
      exact changed (by rw [hreg, if_neg hne])
    exact .inr (.inl ⟨idle, v, turn, by rw [hreg, if_pos rfl]⟩)
  | command v i turn pending decoded completes =>
    have noError : t.err = 0 := by
      by_contra herr
      exact changed (by simp only [State.reg, (completes.errorFrame herr).1])
    have dest : r ∈ i.dests := by
      by_contra hr
      exact changed (completes.regFrame r hr)
    exact .inr (.inr ⟨turn, noError, v, i, pending, decoded, dest⟩)
  | reset turn ht => exact .inl turn
  | _ => simp_all [State.reg]

/-- Settles O29: a command that changes a byte ends with ERR = 0, and the byte is one it stores. -/
theorem onlyTheseWriteBuffers : Obligations.OnlyTheseWriteBuffers := by
  unfold Obligations.OnlyTheseWriteBuffers
  intro s t off h changed
  cases step_effect h with
  | writeByte b j v idle _ _ turn ht =>
    obtain rfl : off = b.base + j := by
      by_contra hne
      exact changed (by rw [ht]; exact Memory.read_write_of_ne s.mem _ _ off hne)
    exact .inr (.inl ⟨idle, v, turn⟩)
  | command v i turn pending decoded completes =>
    have noError : t.err = 0 := by
      by_contra herr
      exact changed (by rw [(completes.errorFrame herr).2])
    have stored : Instr.storesAt s.cfg off i := by
      by_contra hoff
      exact changed (completes.memFrame off hoff)
    exact .inr (.inr ⟨turn, noError, v, i, pending, decoded, stored⟩)
  | reset turn ht => exact .inl turn
  | _ => simp_all

/-! ### DONE and ERR: what a step does whose input is known -/

/-- The engine's turn with a command in flight completes it (R181). -/
theorem step_engine_completes {s t : State} {v : Word} (h : step s = .next t) (turn : Spec.turn s = .engine)
    (pending : s.pending = some v) :
    (∃ e, decode v = .error e ∧ t = State.finish { s with inputs := s.inputs.tail } .illegalCommand) ∨
      ∃ i, decode v = .ok i ∧ exec i { s with inputs := s.inputs.tail } = .next t := by
  obtain ⟨idle, -⟩ | ⟨v', inFlight, ends⟩ := engineTurn_next (step_of_turn h turn)
  · simp [pending] at idle
  · obtain rfl : v = v' := Option.some.inj (pending.symm.trans inFlight)
    exact ends

theorem step_reset_eq {s t : State} (h : step s = .next t) (turn : Spec.turn s = .reset) :
    t = State.resetInput { s with inputs := s.inputs.tail } :=
  (Host.Outcome.next.inj (step_of_turn h turn)).symm

/-- A STATUS write has its effect whatever BUSY (R24). -/
theorem step_writeStatus_eq {s t : State} {v : Word} (h : step s = .next t)
    (turn : Spec.turn s = .host (.write (s.cfg.base + 0x018) 8 v)) :
    t = { s.writeStatus v with inputs := s.inputs.tail, resp := .writeOkay } :=
  step_of_write h turn

/-- A CMD write while idle is accepted (R180). -/
theorem step_accept_eq {s t : State} {v : Word} (h : step s = .next t) (idle : s.busy = false)
    (turn : Spec.turn s = .host (.write (s.cfg.base + 0x020) 8 v)) :
    t = { s.accept v with inputs := s.inputs.tail, resp := .writeOkay } := by
  have accepted : State.writeSlot { s with inputs := s.inputs.tail } v .cmd =
      State.accept { s with inputs := s.inputs.tail } v :=
    if_neg (by simp [idle])
  rw [step_of_write h turn]
  change ({ State.writeSlot { s with inputs := s.inputs.tail } v .cmd with resp := .writeOkay } : State) = _
  rw [accepted]
  rfl

/-- Settles O58: one direction by the effects a step can have, the other by what the known input does. -/
theorem doneRisesAndFalls : Obligations.DoneRisesAndFalls := by
  unfold Obligations.DoneRisesAndFalls
  intro s t h
  refine ⟨fun clear => ⟨fun set => ?_, ?_⟩, fun set => ⟨fun clear => ?_, ?_⟩⟩
  · cases step_effect h with
    | illegal v e turn pending _ _ => exact ⟨turn, by simp [pending]⟩
    | command v i turn pending _ _ => exact ⟨turn, by simp [pending]⟩
    | _ => simp_all
  · rintro ⟨turn, pending⟩
    obtain ⟨v, pending⟩ := Option.isSome_iff_exists.mp pending
    obtain ⟨e, -, rfl⟩ | ⟨i, -, he⟩ := step_engine_completes h turn pending
    · rfl
    · exact (exec_next he).done
  · cases step_effect h with
    | writeStatus v turn ht => exact .inr (.inl ⟨v, turn, by simpa [ht, set] using clear⟩)
    | accept v idle turn ht => exact .inr (.inr ⟨idle, v, turn⟩)
    | reset turn ht => exact .inl turn
    | command v i _ _ _ completes => simp [completes.done] at clear
    | _ => simp_all
  · rintro (turn | ⟨v, turn, hv⟩ | ⟨idle, v, turn⟩)
    · rw [step_reset_eq h turn]
      rfl
    · rw [step_writeStatus_eq h turn]
      simp [State.writeStatus, hv]
    · rw [step_accept_eq h idle turn]
      rfl

/-- Settles O59: the effects that change ERR, and the code that each of them gives. -/
theorem errChanges : Obligations.ErrChanges := by
  unfold Obligations.ErrChanges
  intro s t h
  refine ⟨fun changed => ?_, fun turn => ?_, fun v idle turn => ?_, fun v turn pending => ?_⟩
  · cases step_effect h with
    | accept v idle turn ht => exact .inr (.inl ⟨idle, v, turn⟩)
    | illegal v e turn pending _ _ => exact .inr (.inr ⟨turn, by simp [pending]⟩)
    | command v i turn pending _ _ => exact .inr (.inr ⟨turn, by simp [pending]⟩)
    | reset turn ht => exact .inl turn
    | _ => simp_all
  · rw [step_reset_eq h turn]
    rfl
  · rw [step_accept_eq h idle turn]
    rfl
  · obtain ⟨e, decoded, rfl⟩ | ⟨i, decoded, he⟩ := step_engine_completes h turn pending <;> rw [decoded]
    · exact ⟨fun _ _ => rfl, by simp, by simp⟩
    · refine ⟨by simp, fun hi => ?_, fun i' hi phase => ?_⟩
      · obtain rfl := Except.ok.inj hi
        obtain rfl := Host.Outcome.next.inj he
        rfl
      · obtain rfl := Except.ok.inj hi
        exact (exec_next he).code phase.errorKnown

end Sys2Proof.Machine
end

section
/-! The invariant: it holds after reset, and every effect of a step keeps it (R38). -/

namespace Sys2Proof.Machine

/-- The loop of R103 multiplies what it has so far by the power still to come, modulo M. -/
theorem modPowLoop_eq (modulus fuel r x e : Nat) (hfuel : e < 2 ^ fuel) (hr : r % modulus = r) :
    modPowLoop modulus fuel r x e = r * x ^ e % modulus := by
  induction fuel generalizing r x e with
  | zero =>
    obtain rfl : e = 0 := by omega
    simp [modPowLoop, hr]
  | succ fuel ih =>
    rw [modPowLoop]
    split
    · simp_all
    · have hhalf : e / 2 < 2 ^ fuel := by omega
      have hsquare : x ^ e = x ^ (e % 2) * (x * x) ^ (e / 2) := by
        rw [← pow_two, ← pow_mul, ← pow_add, Nat.mod_add_div]
      split
      · rename_i hodd
        rw [ih _ _ _ hhalf (by simp [modMul]), hsquare, hodd, modMul, modMul, pow_one, ← mul_assoc]
        simp [Nat.mul_mod, Nat.pow_mod]
      · rename_i heven
        rw [ih _ _ _ hhalf hr, hsquare, show e % 2 = 0 by omega, modMul, pow_zero, one_mul]
        simp [Nat.mul_mod, Nat.pow_mod]

/-- modPow is the power over the integers, reduced (R103). -/
theorem modPow_eq (a b modulus : Nat) : modPow a b modulus = a ^ b % modulus := by
  rw [modPow, modPowLoop_eq _ _ _ _ _ Nat.lt_log2_self (Nat.mod_mod _ _), Nat.mod_mul_mod, one_mul, ← Nat.pow_mod]

/-- Working values that say nothing are exact. -/
theorem State.phaseExact_of_idle {s : State} (h : s.rsaw = .idle) : s.PhaseExact := by
  simp [State.PhaseExact, h]

/-- The exact reply to the request R164 sends next keeps the working values exact (R161). -/
theorem State.PhaseExact.absorb {s : State} {r : Request} (h : s.PhaseExact) (next : s.nextRequest = some r) :
    ({ s with rsaw := s.rsaw.absorb (answer r) } : State).PhaseExact := by
  unfold State.nextRequest at next
  unfold State.PhaseExact at h
  cases hp : s.rsaw <;> simp only [hp, Option.some.injEq, reduceCtorEq] at next h <;> subst next
  case idle => exact rfl
  case gotM m => exact ⟨h, rfl⟩
  case gotMK m k => exact ⟨h.1, h.2, rfl⟩
  case gotMKN m k n =>
    obtain ⟨rfl, rfl, rfl⟩ := h
    simp only [answer]
    cases order : compare (s.bufInt .m) (s.bufInt .n) with
    | lt => exact ⟨rfl, rfl, rfl, compare_lt_iff_lt.mp order⟩
    | eq => exact .inr ⟨rfl, (compare_eq_iff_eq.mp order).ge⟩
    | gt => exact .inr ⟨rfl, (compare_gt_iff_gt.mp order).le⟩
  case inRange m k n =>
    obtain ⟨rfl, rfl, rfl, hlt⟩ := h
    exact ⟨hlt, modPow_eq _ _ _⟩
  case gotR r =>
    obtain ⟨hlt, rfl⟩ := h
    exact ⟨hlt, rfl⟩

/-- While no command is in flight there is no request and no working value (R35, R36). -/
theorem State.Inv.idle {s : State} (h : s.Inv) (idle : s.busy = false) :
    s.pending = none ∧ s.bigReq = none ∧ s.rsaw = .idle := by
  have pending : s.pending = none := by simpa [idle] using h.busyIffPending
  have notRsaw : s.rsawInFlight = false := by simp [State.rsawInFlight, pending]
  refine ⟨pending, ?_, ?_⟩
  · by_contra hr
    have := h.requestOnlyRsaw (Option.isSome_iff_ne_none.mpr hr)
    simp [notRsaw] at this
  · by_contra hp
    have := h.phaseOnlyRsaw hp
    simp [notRsaw] at this

/-- The clauses about RSAW hold of any state without a request and working values. -/
theorem State.Inv.of_noRsaw {s : State} (bigReq : s.bigReq = none) (rsaw : s.rsaw = .idle) (cfgLegal : s.cfg.Legal)
    (memWf : Memory.wf s.mem = true) (memInBuffers : ∀ c ∈ s.mem, bufferOffset s.cfg c.1 = true)
    (busyIffPending : s.pending.isSome = s.busy) (busyNotDone : s.busy = true → s.done = false)
    (busyNoErr : s.busy = true → s.err = 0) (errProduced : s.err ∈ ([0, 3, 8, 9, 10, 11] : List (BitVec 8)))
    (cmdIsPending : ∀ v, s.pending = some v → s.cmd = v.setWidth 32) : s.Inv where
  cfgLegal := cfgLegal
  memWf := memWf
  memInBuffers := memInBuffers
  busyIffPending := busyIffPending
  requestOnlyRsaw h := by simp [bigReq] at h
  requestIsNext h := by simp [bigReq] at h
  phaseOnlyRsaw h := absurd rsaw h
  phaseExact := State.phaseExact_of_idle rsaw
  busyNotDone := busyNotDone
  busyNoErr := busyNoErr
  errProduced := errProduced
  cmdIsPending := cmdIsPending

/-- The registers, BUSYERR, CTRL and the model's own fields do not occur in the invariant, and DONE may be cleared. -/
theorem State.Inv.frame {s : State} (h : s.Inv) {x : Vector Word 16} {done busyerr ie : Bool} {inputs : List Input}
    {replies : List Bool} {draws : Nat} {resp : Response} (hdone : s.busy = true → done = false) :
    ({ s with
      x := x, done := done, busyerr := busyerr, ie := ie, inputs := inputs, replies := replies, draws := draws,
      resp := resp } : State).Inv where
  cfgLegal := h.cfgLegal
  memWf := h.memWf
  memInBuffers := h.memInBuffers
  busyIffPending := h.busyIffPending
  requestOnlyRsaw := h.requestOnlyRsaw
  requestIsNext := h.requestIsNext
  phaseOnlyRsaw := h.phaseOnlyRsaw
  phaseExact := h.phaseExact
  busyNotDone := hdone
  busyNoErr := h.busyNoErr
  errProduced := h.errProduced
  cmdIsPending := h.cmdIsPending

theorem State.Inv.accept {s : State} (h : s.Inv) (idle : s.busy = false) (v : Word) : (s.accept v).Inv := by
  obtain ⟨-, bigReq, rsaw⟩ := h.idle idle
  exact .of_noRsaw bigReq rsaw h.cfgLegal h.memWf h.memInBuffers rfl (fun _ => rfl) (fun _ => rfl) (by simp)
    fun w hw => by rw [← Option.some.inj hw]; rfl

theorem State.Inv.setBufByte {s : State} (h : s.Inv) (idle : s.busy = false) {b : Buf} {j : Nat} (width : j < s.cfg.width)
    (region : j < 0x10000) (v : Byte) : (s.setBufByte b j v).Inv := by
  obtain ⟨-, bigReq, rsaw⟩ := h.idle idle
  refine .of_noRsaw bigReq rsaw h.cfgLegal (Memory.wf_write h.memWf _ v) (fun c hc => ?_) h.busyIffPending h.busyNotDone
    h.busyNoErr h.errProduced h.cmdIsPending
  obtain rfl | hc := Memory.mem_write hc
  · exact bufferOffset_base_add b width region
  · exact h.memInBuffers c hc

/-- The completion of a command, legal or not, keeps the invariant. -/
theorem State.Inv.completedWith {s : State} (h : s.Inv) {x : Vector Word 16} {mem : Memory} {e : BitVec 8}
    {inputs : List Input} {replies : List Bool} {draws : Nat} (wf : Memory.wf mem = true)
    (inBuffers : ∀ c ∈ mem, bufferOffset s.cfg c.1 = true) (code : e ∈ ([0, 3, 8, 9, 10, 11] : List (BitVec 8))) :
    ({ s.completedWith x mem e with inputs := inputs, replies := replies, draws := draws } : State).Inv :=
  .of_noRsaw rfl rfl h.cfgLegal wf inBuffers rfl (fun hb => nomatch hb) (fun hb => nomatch hb) code fun _ hv => nomatch hv

theorem State.Inv.completes {i : Instr} {s t : State} (h : s.Inv) (ends : Completes i s t) : t.Inv := by
  obtain ⟨q, d, ht, -⟩ := ends.completed
  rw [ht]
  exact h.completedWith (ends.memWf h.memWf) (ends.memInBuffers h.cfgLegal h.memInBuffers)
    (i.completionCodes_subset (ends.code h.phaseExact.errorKnown))

/-- A port turn sends the request R164 sends next (R160). -/
theorem State.Inv.portTurn {s : State} (h : s.Inv) : s.portTurn.Inv := by
  unfold State.portTurn
  split
  · rename_i inFlight
    cases hr : s.bigReq with
    | some r => simpa [State.send, hr] using h
    | none =>
      rw [State.send_of_none hr]
      exact { h with requestOnlyRsaw := fun _ => inFlight, requestIsNext := fun _ => rfl }
  · exact h

/-- A reply is the exact one to the request R164 sends next, or a failure (R161). -/
theorem State.Inv.collabTurn {s : State} (h : s.Inv) : s.collabTurn.Inv := by
  cases hr : s.bigReq with
  | none => rwa [State.collabTurn_of_none hr]
  | some r =>
    have waiting : s.bigReq.isSome = true := by simp [hr]
    have phase : State.PhaseExact
        { s with rsaw := if s.replyAt 0 then s.rsaw.absorb (answer r) else .failed .collabFail } := by
      split
      · exact h.phaseExact.absorb (hr ▸ h.requestIsNext waiting).symm
      · exact .inl rfl
    rw [State.collabTurn_of_some hr]
    exact {
      h with
      requestOnlyRsaw := fun none_waits => nomatch none_waits
      requestIsNext := fun none_waits => nomatch none_waits
      phaseOnlyRsaw := fun _ => h.requestOnlyRsaw waiting
      phaseExact := phase }

/-- Settles O56: nothing is in flight and no byte is listed. -/
theorem resetMeetsInvariant : Obligations.ResetMeetsInvariant := by
  unfold Obligations.ResetMeetsInvariant
  intro c legal
  exact .of_noRsaw rfl rfl legal rfl (fun _ hc => nomatch hc) rfl (fun _ => rfl) (fun _ => rfl)
    (by simp [State.resetWith]) fun _ hv => nomatch hv

/-- Settles O55: each effect a step can have keeps the invariant. -/
theorem stepKeepsInvariant : Obligations.StepKeepsInvariant := by
  unfold Obligations.StepKeepsInvariant
  intro s t h hstep
  have dequeued : ({ s with inputs := s.inputs.tail } : State).Inv := h.frame h.busyNotDone
  cases step_effect hstep with
  | access a d r _ ht => exact ht ▸ h.frame h.busyNotDone
  | writeCtrl v _ ht => exact ht ▸ h.frame h.busyNotDone
  | writeStatus v _ ht => exact ht ▸ h.frame fun busy => by simp [h.busyNotDone busy]
  | discard _ _ _ _ _ _ _ _ _ ht => exact ht ▸ h.frame h.busyNotDone
  | accept v idle _ ht => exact ht ▸ (h.accept idle v).frame fun _ => rfl
  | writeReg r v _ _ ht => exact ht ▸ h.frame h.busyNotDone
  | writeByte b j v idle width region _ ht =>
    exact ht ▸ (h.setBufByte idle width region (v.setWidth 8)).frame h.busyNotDone
  | idle _ _ ht => exact ht ▸ dequeued
  | illegal v e _ _ _ ht => exact ht ▸ h.completedWith h.memWf h.memInBuffers (by simp)
  | command v i _ _ _ completes => exact dequeued.completes completes
  | port _ ht => exact ht ▸ dequeued.portTurn
  | collab _ ht => exact ht ▸ dequeued.collabTurn
  | reset _ ht => exact ht ▸ (resetMeetsInvariant s.cfg h.cfgLegal).frame fun _ => rfl

end Sys2Proof.Machine
end

section
/-! Reads and writes of the window, slot by slot (20_memory.md R50 to R58). -/

namespace Sys2Proof.Machine

/-! ### What an access reaches (R51 to R53) -/

section accessesByOffset
variable {c : Config} {off size : Nat}

theorem slotOf_page (page : off < 0x10000) (aligned : off % 8 = 0) : slotOf c off 8 = some (pageSlot off) := by
  rw [slotOf, if_pos page, if_pos ⟨rfl, aligned⟩]

theorem slotOf_reg (r : Reg) : slotOf c (0x100 + 8 * r.val) 8 = some (.reg r) := by
  rw [slotOf_page (by omega) (by omega), pageSlot_reg]

theorem slotOf_regionByte (region : 0x10000 ≤ off) (width : off % 0x10000 < c.width) :
    slotOf c off 1 = some (.byte (regionBuf (off / 0x10000)) (off % 0x10000)) := by
  rw [slotOf, if_neg (by omega), if_pos rfl, if_pos width]

theorem slotOf_padding (region : 0x10000 ≤ off) (width : c.width ≤ off % 0x10000) : slotOf c off 1 = some .padding := by
  rw [slotOf, if_neg (by omega), if_pos rfl, if_neg (by omega)]

theorem slotOf_page_eq_none (page : off < 0x10000) (illegal : size ≠ 8 ∨ off % 8 ≠ 0) : slotOf c off size = none :=
  (slotOf_eq_none_iff c off size).mpr (by omega)

theorem slotOf_region_eq_none (region : 0x10000 ≤ off) (illegal : size ≠ 1) : slotOf c off size = none :=
  (slotOf_eq_none_iff c off size).mpr (by omega)

/-- An offset of a buffer region is its buffer's base and the byte's number (R53). -/
theorem regionBuf_base_add (region : 0x10000 ≤ off) (window : off < 0x40000) :
    (regionBuf (off / 0x10000)).base + off % 0x10000 = off := by
  have base : (regionBuf (off / 0x10000)).base = off / 0x10000 * 0x10000 := by
    obtain hr | hr | hr : off / 0x10000 = 1 ∨ off / 0x10000 = 2 ∨ off / 0x10000 = 3 := by omega
    all_goals rw [hr]; rfl
  omega

/-- Of the register page only R0..R15 give free values while BUSY = 1 (R57). -/
theorem pageSlot_operand (off : Nat) : (pageSlot off).operand = true ↔ 0x100 ≤ off ∧ off < 0x180 := by
  unfold pageSlot
  split
  case h_6 => split <;> simp_all [Slot.operand]
  all_goals simp [Slot.operand]

end accessesByOffset

/-! ### What an access does, its slot known -/

section accessesBySlot
variable {s : State} {off size : Nat} {t : Slot} {v : Word}

/-- A read of an operand while BUSY = 1 uses up a free value (R57). -/
theorem State.afterRead_eq (s : State) (t : Slot) :
    s.afterRead t = { s with draws := if t.operand = true ∧ s.busy = true then s.draws + 1 else s.draws } := by
  simp only [State.afterRead, Bool.and_eq_true]
  split <;> rfl

theorem State.busRead_of_slot (slot : slotOf s.cfg off size = some t) :
    s.busRead off size =
      { s with
        resp := .readOkay (s.readSlot t)
        draws := if t.operand = true ∧ s.busy = true then s.draws + 1 else s.draws } := by
  rw [State.busRead, slot]
  dsimp only
  rw [State.afterRead_eq]

theorem State.busWrite_of_slot (slot : slotOf s.cfg off size = some t) :
    s.busWrite off size v = { s.writeSlot v t with resp := .writeOkay } := by
  rw [State.busWrite, slot]

theorem State.busRead_of_none (slot : slotOf s.cfg off size = none) : s.busRead off size = { s with resp := .busError } := by
  rw [State.busRead, slot]

theorem State.busWrite_of_none (slot : slotOf s.cfg off size = none) :
    s.busWrite off size v = { s with resp := .busError } := by
  rw [State.busWrite, slot]

theorem State.busWrite_of_busy (busy : s.busy = true) (slot : slotOf s.cfg off size = some t)
    (operand : t = .cmd ∨ t.operand = true) :
    s.busWrite off size v = { s with busyerr := true, resp := .writeOkay } := by
  rw [State.busWrite_of_slot slot, State.writeSlot_of_busy busy v operand]
  rfl

@[simp] theorem State.writeSlot_cfg (s : State) (v : Word) (t : Slot) : (s.writeSlot v t).cfg = s.cfg := by
  obtain e | ⟨-, e⟩ | ⟨-, e⟩ | ⟨-, -, e⟩ | ⟨-, -, e⟩ | ⟨-, _, -, e⟩ | ⟨-, _, _, -, e⟩ :=
    s.writeSlot_cases v t <;> rw [e] <;> rfl

end accessesBySlot

/-! ### The register page (R52) -/

/-- Fields that do not overlap add up. -/
theorem shiftLeft_or_eq {n low : Nat} (high : Nat) (fits : low < 2 ^ n) :
    BitVec.ofNat 64 high <<< n ||| BitVec.ofNat 64 low = BitVec.ofNat 64 (high * 2 ^ n + low) := by
  have shifted : BitVec.ofNat 64 high <<< n = BitVec.ofNat 64 (2 ^ n * high) := by
    apply BitVec.eq_of_toNat_eq
    simp [Nat.shiftLeft_eq, mul_comm]
  rw [shifted, mul_comm high, Nat.two_pow_add_eq_or_of_lt fits, BitVec.ofNat_or]

/-- The fields of CFG stand in bits 31:0, 39:32 and 47:40 (R32). -/
theorem cfgWord_eq (c : Config) : cfgWord c = BitVec.ofNat 64 (64 * 2 ^ 40 + 16 * 2 ^ 32 + c.keyBits % 2 ^ 32) := by
  have fixed : (64#8).setWidth 64 <<< 40 ||| (16#8).setWidth 64 <<< 32 = BitVec.ofNat 64 (64 * 2 ^ 8 + 16) <<< 32 := by
    decide
  have keyBits : (BitVec.ofNat 32 c.keyBits).setWidth 64 = BitVec.ofNat 64 (c.keyBits % 2 ^ 32) :=
    BitVec.eq_of_toNat_eq (by simp)
  have high : 64 * 2 ^ 40 + 16 * 2 ^ 32 = (64 * 2 ^ 8 + 16) * 2 ^ 32 := by decide
  rw [cfgWord, fixed, keyBits, shiftLeft_or_eq _ (Nat.mod_lt _ (by decide)), high]

theorem State.ctrlWord_eq (s : State) : s.ctrlWord = BitVec.ofNat 64 s.ie.toNat := by
  cases h : s.ie <;> simp [State.ctrlWord, h]

/-- The fields of STATUS stand in bits 0, 1, 2 and 15:8 (R24). -/
theorem State.statusWord_eq (s : State) :
    s.statusWord =
      BitVec.ofNat 64 (s.err.toNat * 2 ^ 8 + s.busyerr.toNat * 2 ^ 2 + s.done.toNat * 2 + s.busy.toNat) := by
  have flags (a b c : Bool) :
      (BitVec.ofBool a).setWidth 64 <<< 2 ||| (BitVec.ofBool b).setWidth 64 <<< 1 ||| (BitVec.ofBool c).setWidth 64 =
        BitVec.ofNat 64 (a.toNat * 2 ^ 2 + b.toNat * 2 + c.toNat) := by
    revert a b c
    decide
  have fits (a b c : Bool) : a.toNat * 2 ^ 2 + b.toNat * 2 + c.toNat < 2 ^ 8 := by
    revert a b c
    decide
  have word := shiftLeft_or_eq s.err.toNat (fits s.busyerr s.done s.busy)
  rw [← flags, BitVec.ofNat_toNat] at word
  simpa only [State.statusWord, BitVec.or_assoc, add_assoc] using word

/-- STATUS is write-1-to-clear (R24). -/
theorem State.writeStatus_eq (s : State) (v : Word) :
    s.writeStatus v =
      { s with
        done := if v.getLsbD 1 = true then false else s.done
        busyerr := if v.getLsbD 2 = true then false else s.busyerr } := by
  have cleared (a b : Bool) : (a && !b) = if b = true then false else a := by cases a <;> cases b <;> rfl
  rw [State.writeStatus, cleared, cleared]

theorem State.readSlot_pageSlot (s : State) (off : Nat) : s.readSlot (pageSlot off) = Spec.pageRead s off := by
  unfold pageSlot
  split
  case h_1 => rfl
  case h_2 => exact cfgWord_eq s.cfg
  case h_3 => exact s.ctrlWord_eq
  case h_4 => exact s.statusWord_eq
  case h_5 => exact (BitVec.ofNat_toNat 64 s.cmd).symm
  case h_6 => split <;> simp_all [Spec.pageRead, State.readSlot]

theorem State.writeSlot_pageSlot (s : State) (off : Nat) (v : Word) :
    s.writeSlot v (pageSlot off) = Spec.pageWrite s off v := by
  unfold pageSlot
  split
  case h_4 => exact s.writeStatus_eq v
  case h_6 => split <;> simp_all [Spec.pageWrite, State.writeSlot, State.discardWrite]
  all_goals rfl

/-- Settles O17: an aligned 8-byte access reaches the page's slot at its offset, any other reaches none. -/
theorem registerPageAccess : Obligations.RegisterPageAccess := by
  unfold Obligations.RegisterPageAccess
  refine ⟨fun s off page aligned => ?_, fun s off v page aligned => ?_, fun s off size v page illegal => ?_⟩
  · rw [State.busRead_of_slot (slotOf_page page aligned), State.readSlot_pageSlot]
    simp only [pageSlot_operand, and_assoc]
  · rw [State.busWrite_of_slot (slotOf_page page aligned), State.writeSlot_pageSlot]
  · have slot := slotOf_page_eq_none (c := s.cfg) page illegal
    exact ⟨State.busRead_of_none slot, State.busWrite_of_none slot⟩

/-! ### The buffer regions (R53) -/

theorem State.busRead_padding {s : State} {off : Nat} (region : 0x10000 ≤ off) (width : s.cfg.width ≤ off % 0x10000) :
    s.busRead off 1 = { s with resp := .readOkay 0 } :=
  State.busRead_of_slot (slotOf_padding region width)

theorem State.busWrite_padding {s : State} {off : Nat} {v : Word} (region : 0x10000 ≤ off)
    (width : s.cfg.width ≤ off % 0x10000) : s.busWrite off 1 v = { s with resp := .writeOkay } :=
  State.busWrite_of_slot (slotOf_padding region width)

/-- Settles O18: a 1-byte access reaches a buffer byte or padding, any other reaches none. -/
theorem bufferRegionAccess : Obligations.BufferRegionAccess := by
  unfold Obligations.BufferRegionAccess
  refine ⟨fun s off region window => ?_, fun s off v region window => ⟨?_, ?_, ?_⟩,
    fun s off size v region window illegal => ?_⟩
  · by_cases width : s.cfg.width ≤ off % 0x10000
    · rw [State.busRead_padding region width, if_pos width, if_neg (by omega)]
      rfl
    · rw [State.busRead_of_slot (slotOf_regionByte region (by omega)), if_neg width]
      simp [State.readSlot, State.bufByte, Slot.operand, regionBuf_base_add region window, Nat.lt_of_not_le width]
  · exact State.busWrite_padding region
  · intro width busy
    exact State.busWrite_of_busy busy (slotOf_regionByte region width) (.inr rfl)
  · intro width idle wf
    refine ⟨Memory.write s.mem off (v.setWidth 8), ?_, Memory.wf_write wf _ _, Memory.read_write wf _ _⟩
    rw [State.busWrite_of_slot (slotOf_regionByte region width)]
    simp [State.writeSlot, State.setBufByte, idle, regionBuf_base_add region window]
  · have slot := slotOf_region_eq_none (c := s.cfg) region illegal
    exact ⟨State.busRead_of_none slot, State.busWrite_of_none slot⟩

/-- Settles O22: reserved offsets and padding are slots of their own, which no access changes. -/
theorem reservedOffsets : Obligations.ReservedOffsets := by
  unfold Obligations.ReservedOffsets
  intro s off v
  refine ⟨fun ⟨aligned, reserved⟩ => ?_, fun ⟨region, window, width⟩ => ?_, fun ignored => ?_⟩
  · have slot : slotOf s.cfg off 8 = some .reserved := by
      rw [slotOf_page (by omega) aligned]
      unfold pageSlot
      split
      case h_6 => rw [if_neg (by omega)]
      all_goals omega
    exact ⟨State.busRead_of_slot slot, State.busWrite_of_slot slot⟩
  · exact ⟨State.busRead_padding region width, State.busWrite_padding region width⟩
  · obtain rfl | rfl := ignored <;> rfl

/-! ### Accesses while BUSY = 1 (R57) -/

/-- A read of an operand while BUSY = 1 gives a free value. -/
theorem State.busRead_of_busy {s : State} {off size : Nat} {t : Slot} (busy : s.busy = true)
    (slot : slotOf s.cfg off size = some t) (operand : t.operand = true) :
    s.busRead off size = { s with resp := .readOkay (s.readSlot t), draws := s.draws + 1 } := by
  rw [State.busRead_of_slot slot, if_pos ⟨operand, busy⟩]

/-- Settles O20: the operands' slots give free values and discard writes; the page's other slots do not look at BUSY. -/
theorem accessesWhileBusy : Obligations.AccessesWhileBusy := by
  unfold Obligations.AccessesWhileBusy
  intro s busy
  obtain ⟨pageRead, pageWrite, -⟩ := registerPageAccess
  refine ⟨fun r v => ?_, fun b j v width region => ?_, fun v => ?_, fun r => ?_, fun b j width region => ?_,
    fun off hoff => ?_, fun off hoff v => ?_⟩
  · exact State.busWrite_of_busy busy (slotOf_reg r) (.inr rfl)
  · exact State.busWrite_of_busy busy (slotOf_byte s.cfg b j width region) (.inr rfl)
  · exact State.busWrite_of_busy busy (slotOf_page (by decide) (by decide)) (.inl rfl)
  · simp [State.busRead_of_busy busy (slotOf_reg r) rfl, State.readSlot, busy]
  · simp [State.busRead_of_busy busy (slotOf_byte s.cfg b j width region) rfl, State.readSlot, busy]
  · have low : off < 0x100 ∧ off % 8 = 0 := by
      revert off
      decide
    rw [pageRead s off (by omega) low.2, if_neg (by omega)]
  · have low : off < 0x100 ∧ off % 8 = 0 := by
      revert off
      decide
    exact pageWrite s off v (by omega) low.2

/-! ### Effects (R50, R55, R58) -/

/-- Settles O16: the offset is the address less BASE. -/
theorem windowDecoding : Obligations.WindowDecoding := by
  unfold Obligations.WindowDecoding
  refine ⟨fun s off size v hoff => ?_, fun s addr size v outside => ?_⟩
  · have inside : inWindow s.cfg (s.cfg.base + off) = true := (inWindow_iff _ _).mpr (by omega)
    simp [hostAccess, Access.addr, inside]
  · have out : ¬ inWindow s.cfg addr = true := by
      rw [inWindow_iff]
      omega
    simp [hostAccess, Access.addr, out]

/-- Settles O19: any other outcome of an access has an OKAY response. -/
theorem busErrorHasNoEffect : Obligations.BusErrorHasNoEffect := by
  unfold Obligations.BusErrorHasNoEffect
  refine ⟨rfl, fun s off size v => ⟨fun h => ?_, fun h => ?_⟩⟩
  · obtain e | ⟨t, -, e | e⟩ := s.busRead_cases off size
    · exact e
    · simp [e] at h
    · simp [e] at h
  · obtain e | ⟨t, -, e⟩ := s.busWrite_cases off size v
    · exact e
    · simp [e] at h

/-- Writing the byte that is already there changes nothing: the canonical form has one way to hold it. -/
theorem Memory.write_read_self {m : Memory} (hw : Memory.wf m = true) (addr : Nat) :
    Memory.write m addr (Memory.read m addr) = m := by
  induction m with
  | nil => rfl
  | cons cell rest ih =>
    obtain ⟨a, b⟩ := cell
    obtain ⟨nonzero, above, wfRest⟩ := (Memory.wf_cons_iff a b rest).mp hw
    obtain hlt | rfl | hgt := lt_trichotomy a addr
    · simp [Memory.write, hlt, hlt.ne, ih wfRest]
    · simp only [Memory.write, Memory.read_cons, Memory.cons, lt_irrefl, if_true, if_false, nonzero]
    · have zero : Memory.read rest addr = 0 := Memory.read_of_above above hgt.le
      simp [Memory.write, Memory.cons, hgt.ne', hgt.not_gt, zero]

/-- A second write of the same byte changes nothing. -/
theorem Memory.write_write_self {m : Memory} (hw : Memory.wf m = true) (addr : Nat) (v : Byte) :
    Memory.write (Memory.write m addr v) addr v = Memory.write m addr v := by
  have h := Memory.write_read_self (Memory.wf_write hw addr v) addr
  rwa [Memory.read_write_self hw] at h

/-- A second write to any slot but CMD changes nothing, whatever response stands recorded. -/
theorem State.writeSlot_writeSlot {s : State} {t : Slot} (wf : Memory.wf s.mem = true) (notCmd : t ≠ .cmd) (v : Word)
    (r : Response) : State.writeSlot { s.writeSlot v t with resp := r } v t = { s.writeSlot v t with resp := r } := by
  cases t with
  | cmd => exact absurd rfl notCmd
  | id | cfg | reserved | padding | ctrl => rfl
  | status => simp [State.writeSlot, State.writeStatus]
  | reg i => cases busy : s.busy <;> simp [State.writeSlot, State.setReg, State.discardWrite, busy]
  | byte b j =>
    cases busy : s.busy <;>
      simp [State.writeSlot, State.setBufByte, State.discardWrite, busy, Memory.write_write_self wf]

/-- Settles O21: the second write reaches the same slot, and no slot but CMD is at 0x020. -/
theorem readsAndIdempotentWrites : Obligations.ReadsAndIdempotentWrites := by
  unfold Obligations.ReadsAndIdempotentWrites
  refine ⟨fun s off size => ?_, fun s off size v wf notCmd => ?_⟩
  · obtain e | ⟨t, -, e | e⟩ := s.busRead_cases off size <;> rw [e]
    · exact ⟨s.draws, rfl, le_rfl⟩
    · exact ⟨s.draws, rfl, le_rfl⟩
    · exact ⟨s.draws + 1, rfl, Nat.le_succ _⟩
  · cases slot : slotOf s.cfg off size with
    | none =>
      rw [State.busWrite_of_none slot]
      exact State.busWrite_of_none slot
    | some t =>
      have ht : t ≠ .cmd := fun h => notCmd ((slotOf_control slot).2.2 h).1
      rw [State.busWrite_of_slot slot,
        State.busWrite_of_slot (s := { s.writeSlot v t with resp := .writeOkay }) (by simpa using slot),
        State.writeSlot_writeSlot wf ht]

end Sys2Proof.Machine
end

section
/-! The integer a byte string stands for, and its digits (20_memory.md R54). -/

namespace Sys2Proof.Machine

/-! ### From bytes to an integer (importInt) -/

/-- A byte string's value is that of its digits to base 256, the last byte the lowest. -/
theorem importInt_eq_ofDigits (bytes : List Byte) :
    importInt bytes = Nat.ofDigits 256 (bytes.reverse.map BitVec.toNat) := by
  rw [Nat.ofDigits_eq_foldr, List.foldr_map, List.foldr_reverse, importInt]
  simp [add_comm, mul_comm]

theorem byteDigits_lt (bytes : List Byte) : ∀ d ∈ bytes.reverse.map BitVec.toNat, d < 256 := by
  simp only [List.mem_map]
  rintro _ ⟨b, -, rfl⟩
  exact b.isLt

theorem importInt_lt (bytes : List Byte) : importInt bytes < 256 ^ bytes.length := by
  simpa [importInt_eq_ofDigits] using Nat.ofDigits_lt_base_pow_length (by decide) (byteDigits_lt bytes)

/-- Byte strings of one length and one value are the same. -/
theorem importInt_inj {bytes bytes' : List Byte} (length : bytes.length = bytes'.length)
    (value : importInt bytes = importInt bytes') : bytes = bytes' := by
  rw [importInt_eq_ofDigits, importInt_eq_ofDigits] at value
  have digits := Nat.ofDigits_inj_of_len_eq (by decide) (by simpa using length) (byteDigits_lt bytes)
    (byteDigits_lt bytes') value
  exact List.reverse_injective (List.map_injective_iff.mpr (fun _ _ => BitVec.eq_of_toNat_eq) digits)

theorem importInt_cons (b : Byte) (bytes : List Byte) :
    importInt (b :: bytes) = b.toNat * 256 ^ bytes.length + importInt bytes := by
  simp [importInt_eq_ofDigits, Nat.ofDigits_append, add_comm, mul_comm]

/-- The big-endian sum over a string's bytes. -/
theorem importInt_ofFn {n : Nat} (f : Fin n → Byte) :
    importInt (List.ofFn f) = ∑ j : Fin n, (f j).toNat * 256 ^ (n - 1 - j.val) := by
  induction n with
  | zero => simp [importInt]
  | succ n ih =>
    rw [List.ofFn_succ, importInt_cons, ih, Fin.sum_univ_succ, List.length_ofFn]
    simp [Nat.sub_sub, add_comm]

/-! ### From an integer to bytes (exportInt) -/

@[simp] theorem exportInt_length (v width : Nat) : (exportInt v width).length = width := by
  simp [exportInt]

/-- Byte j of an integer written as bytes is its digit (v div 256^(width-1-j)) mod 256. -/
theorem exportInt_getElem? {width j : Nat} (v : Nat) (hj : j < width) :
    (exportInt v width)[j]? = some (BitVec.ofNat 8 (v / 256 ^ (width - 1 - j) % 256)) := by
  have digit (n : Nat) : BitVec.ofNat 8 (n % 256) = BitVec.ofNat 8 n := BitVec.eq_of_toNat_eq (by simp)
  simp [exportInt, hj, digit]

theorem exportInt_succ (v width : Nat) :
    exportInt v (width + 1) = BitVec.ofNat 8 (v / 256 ^ width) :: exportInt v width := by
  rw [exportInt, List.range_succ_eq_map, List.map_cons, List.map_map]
  simp [exportInt, Function.comp_def, Nat.sub_sub, add_comm]

/-- importInt undoes exportInt, up to what `width` bytes cannot hold. -/
theorem importInt_exportInt (v width : Nat) : importInt (exportInt v width) = v % 256 ^ width := by
  induction width with
  | zero => simp [exportInt, importInt, Nat.mod_one]
  | succ width ih =>
    rw [exportInt_succ, importInt_cons, ih, exportInt_length, BitVec.toNat_ofNat, Nat.mod_pow_succ (x := v), add_comm,
      mul_comm]

/-- exportInt undoes importInt: both strings have one length and one value. -/
theorem exportInt_importInt (bytes : List Byte) : exportInt (importInt bytes) bytes.length = bytes :=
  importInt_inj (exportInt_length _ _) (by rw [importInt_exportInt, Nat.mod_eq_of_lt (importInt_lt bytes)])

/-! ### Buffers -/

theorem State.bufBytes_eq_ofFn (s : State) (b : Buf) :
    s.bufBytes b = List.ofFn fun j : Fin s.cfg.width => Memory.read s.mem (b.base + j.val) :=
  List.ext_getElem (by simp [State.bufBytes]) (by simp [State.bufBytes, State.bufByte])

/-- An integer written back to a buffer stands there as its digits. -/
theorem State.read_setBuf_exportInt {s : State} {j : Nat} (b : Buf) (v : Nat) (wf : Memory.wf s.mem = true)
    (hj : j < s.cfg.width) :
    Memory.read (s.setBuf b (exportInt v s.cfg.width)).mem (b.base + j) =
      BitVec.ofNat 8 (v / 256 ^ (s.cfg.width - 1 - j) % 256) := by
  have whole : (exportInt v s.cfg.width).take s.cfg.width = exportInt v s.cfg.width :=
    List.take_of_length_le (exportInt_length _ _).le
  have stored : j < (exportInt v s.cfg.width).length := by simpa using hj
  rw [State.setBuf_mem, whole, Memory.read_writeList wf _ _ _ stored]
  exact Option.some.inj ((List.getElem?_eq_getElem stored).symm.trans (exportInt_getElem? v hj))

/-- Settles O30: the laws of importInt and exportInt, and the buffer's bytes as one byte string. -/
theorem bigEndianImportExport : Obligations.BigEndianImportExport := by
  unfold Obligations.BigEndianImportExport
  refine ⟨fun s b => ?_, fun s b => ?_, fun s b v j => State.read_setBuf_exportInt b v, fun bytes => ?_, importInt_lt,
    fun v width j => exportInt_getElem? v, exportInt_length, fun v width hv => ?_, exportInt_importInt⟩
  · rw [State.bufInt, State.bufBytes_eq_ofFn, importInt_ofFn]
  · simpa [State.bufInt, State.bufBytes] using importInt_lt (s.bufBytes b)
  · rw [← importInt_ofFn fun j : Fin bytes.length => bytes[j.val], List.ofFn_getElem]
  · rw [importInt_exportInt, Nat.mod_eq_of_lt hv]

end Sys2Proof.Machine
end

section
/-! The decoder and the encoder are inverse, and the opcode map says which words decode (30_encoding.md R80 to R89). -/

namespace Sys2Proof

/-! ### A word and its fields (R81) -/

/-- Taking a word apart and putting it together again gives the word. -/
theorem word_fieldsOf (w : CmdWord) : (fieldsOf w).word = w := by
  change formatC (w.extractLsb' 26 6) (w.extractLsb' 22 4) (w.extractLsb' 18 4) (w.extractLsb' 14 4) (w.extractLsb' 10 4)
    (w.extractLsb' 6 4) (w.getLsbD 5) (w.extractLsb' 0 5) = w
  apply BitVec.eq_of_getLsbD_eq
  intro i hi
  interval_cases i <;> simp [formatC]

theorem fieldsOf_injective : Function.Injective fieldsOf := Function.LeftInverse.injective word_fieldsOf

theorem fieldsOf_encode (i : Instr) : fieldsOf (encode i) = i.fields := fieldsOf_word _

theorem eq_encode_iff (w : CmdWord) (i : Instr) : w = encode i ↔ fieldsOf w = i.fields := by
  rw [← fieldsOf_encode, fieldsOf_injective.eq_iff]

/-! ### What the checks of the decoder accept (R84, R85) -/

section accepts
variable {z : Bool} {f : Fields} {i j e n : Instr}

theorem ifZero_eq_ok_iff : ifZero z i = .ok j ↔ z = true ∧ i = j := by
  cases z <;> simp [ifZero]

theorem ifBound_eq_ok_iff : ifBound i = .ok j ↔ i.wellFormed = true ∧ i = j := by
  cases h : i.wellFormed <;> simp [ifBound, h]

theorem ifZero_bind_ifBound_eq_ok_iff :
    (ifZero z i >>= ifBound) = .ok j ↔ z = true ∧ i.wellFormed = true ∧ i = j := by
  cases z
  · simp [ifZero, bind, Except.bind]
  · exact ifBound_eq_ok_iff.trans (by simp)

theorem decodeMod_eq_ok_iff :
    decodeMod f e n = .ok j ↔
      (f.nw = true ∧ f.rs3 = 0 ∧ f.rs4 = 0 ∧ n = j) ∨ (f.nw = false ∧ f.rs4 = 0 ∧ e = j) := by
  cases h : f.nw <;> simp [decodeMod, h, ifZero_eq_ok_iff, and_assoc]

end accepts

/-! ### Decoding is the inverse of encoding (R89) -/

theorem decodeFields_fields {i : Instr} (wf : i.wellFormed = true) : decodeFields i.fields = .ok i := by
  cases i with
  | xgcd | mrfact => exact ifZero_bind_ifBound_eq_ok_iff.2 ⟨rfl, wf, rfl⟩
  | _ => rfl

/-- Fields that decode to an instruction are that instruction's: each arm checks the fields its command does not use. -/
theorem decodeFields_eq_ok {f : Fields} {i : Instr} (h : decodeFields f = .ok i) (res : f.res = 0) :
    i.wellFormed = true ∧ f = i.fields := by
  obtain ⟨op, rd, rs1, rs2, rs3, rs4, nw, r⟩ := f
  unfold decodeFields at h
  split at h
  case h_1 | h_2 | h_3 =>
    obtain ⟨rfl, rfl, rfl, rfl⟩ | ⟨rfl, rfl, rfl⟩ := decodeMod_eq_ok_iff.1 h <;>
      simp_all [Instr.wellFormed, Instr.fields, fieldsZero, ← BitVec.toNat_inj]
  case h_5 | h_7 =>
    obtain ⟨unused, wf, rfl⟩ := ifZero_bind_ifBound_eq_ok_iff.1 h
    simp_all [Instr.fields, fieldsZero, ← BitVec.toNat_inj]
  case h_13 => cases h
  all_goals
    obtain ⟨unused, rfl⟩ := ifZero_eq_ok_iff.1 h
    simp_all [Instr.wellFormed, Instr.fields, fieldsZero, ← BitVec.toNat_inj]

theorem decodeWord_eq_ok_iff {w : CmdWord} {i : Instr} :
    decodeWord w = .ok i ↔ i.wellFormed = true ∧ w = encode i := by
  rw [decodeWord, eq_encode_iff]
  constructor
  · intro h
    split at h
    next res => exact decodeFields_eq_ok h res
    next => cases h
  · rintro ⟨wf, h⟩
    have res : i.fields.res = 0 := by cases i <;> rfl
    rw [h, if_pos res, decodeFields_fields wf]

theorem upperHalf_eq_zero_iff (v : Word) : v.extractLsb' 32 32 = 0 ↔ v.toNat / 2 ^ 32 = 0 := by
  have upper : (v.extractLsb' 32 32).toNat = v.toNat / 2 ^ 32 % 2 ^ 32 := by
    rw [BitVec.extractLsb'_toNat, Nat.shiftRight_eq_div_pow]
  bv_omega

/-- A CMD value is a zero-extended word when its upper half is 0 and its lower half is the word (R80). -/
theorem eq_setWidth_iff (v : Word) (w : CmdWord) : v = w.setWidth 64 ↔ v.extractLsb' 32 32 = 0 ∧ v.setWidth 32 = w := by
  rw [upperHalf_eq_zero_iff]
  bv_omega

theorem decode_eq_ok_iff {v : Word} {i : Instr} : decode v = .ok i ↔ i.wellFormed = true ∧ v = cmdValue i := by
  rw [cmdValue, eq_setWidth_iff, decode]
  split
  next upper => simp [upper, decodeWord_eq_ok_iff]
  next upper => exact ⟨nofun, fun h => absurd h.2.1 upper⟩

/-- Settles O1: the direction of `decode_eq_ok_iff` that starts from the instruction. -/
theorem decodeOfEncodeIsIdentity : Obligations.DecodeOfEncodeIsIdentity := by
  unfold Obligations.DecodeOfEncodeIsIdentity
  exact fun i wf => decode_eq_ok_iff.2 ⟨wf, rfl⟩

/-- Settles O2: the direction of `decode_eq_ok_iff` that starts from the CMD value. -/
theorem decodeAcceptsOnlyEncodings : Obligations.DecodeAcceptsOnlyEncodings := by
  unfold Obligations.DecodeAcceptsOnlyEncodings
  exact fun v i => decode_eq_ok_iff.1

/-- Settles O5: the encodings of 30_encoding.md §6, evaluated. -/
theorem workedEncodings : Obligations.WorkedEncodings := by
  unfold Obligations.WorkedEncodings
  decide

/-! ### The opcode map (R86) -/

/-- The instruction of `i`'s row whose operands are the fields `f` (R85, R90). -/
def Instr.withFields : Instr → Fields → Instr
  | .madd _ _ _ _, f => .madd f.rd f.rs1 f.rs2 f.rs3
  | .maddNw _ _ _, f => .maddNw f.rd f.rs1 f.rs2
  | .mmul _ _ _ _, f => .mmul f.rd f.rs1 f.rs2 f.rs3
  | .mmulNw _ _ _, f => .mmulNw f.rd f.rs1 f.rs2
  | .mpow _ _ _ _, f => .mpow f.rd f.rs1 f.rs2 f.rs3
  | .mpowNw _ _ _, f => .mpowNw f.rd f.rs1 f.rs2
  | .gcd _ _ _, f => .gcd f.rd f.rs1 f.rs2
  | .xgcd _ _ _, f => .xgcd f.rd f.rs1 f.rs2
  | .minv _ _ _, f => .minv f.rd f.rs1 f.rs3
  | .mrfact _ _, f => .mrfact f.rd f.rs1
  | .mrwit _ _ _ _ _, f => .mrwit f.rd f.rs1 f.rs2 f.rs3 f.rs4
  | .mrtest _ _, f => .mrtest f.rd f.rs1
  | .rsa64 _ _ _ _, f => .rsa64 f.rd f.rs1 f.rs2 f.rs3
  | .rsaw, _ => .rsaw
  | .zeroize, _ => .zeroize

theorem Instr.row_withFields (i : Instr) (f : Fields) : (i.withFields f).row = i.row := by
  cases i <;> rfl

theorem Instr.withFields_fields (i : Instr) : i.withFields i.fields = i := by
  cases i <;> rfl

theorem regField_inj {w w' : CmdWord} {lo : Nat} :
    regField w lo = regField w' lo ↔ w.extractLsb' lo 4 = w'.extractLsb' lo 4 := BitVec.toFin_inj

theorem regField_eq_zero {w : CmdWord} {lo : Nat} : regField w lo = 0 ↔ w.extractLsb' lo 4 = 0 := BitVec.toFin_inj

/-- A mask tests a word field by field. -/
theorem and_eq_iff_fields (w m p : CmdWord) :
    w &&& m = p ↔
      w.extractLsb' 26 6 &&& m.extractLsb' 26 6 = p.extractLsb' 26 6 ∧
      w.extractLsb' 22 4 &&& m.extractLsb' 22 4 = p.extractLsb' 22 4 ∧
      w.extractLsb' 18 4 &&& m.extractLsb' 18 4 = p.extractLsb' 18 4 ∧
      w.extractLsb' 14 4 &&& m.extractLsb' 14 4 = p.extractLsb' 14 4 ∧
      w.extractLsb' 10 4 &&& m.extractLsb' 10 4 = p.extractLsb' 10 4 ∧
      w.extractLsb' 6 4 &&& m.extractLsb' 6 4 = p.extractLsb' 6 4 ∧
      (w.getLsbD 5 && m.getLsbD 5) = p.getLsbD 5 ∧
      w.extractLsb' 0 5 &&& m.extractLsb' 0 5 = p.extractLsb' 0 5 := by
  rw [← fieldsOf_injective.eq_iff]
  simp only [fieldsOf, Fields.mk.injEq, regField_inj, BitVec.extractLsb'_and, BitVec.getLsbD_and]

/-- A row's test holds of a word exactly where the word encodes an instruction of the row: the mask covers the opcode and
the fields the command does not use, each whole, and no other field. -/
theorem row_matches_iff (i : Instr) (w : CmdWord) :
    w &&& i.row.mask = i.row.pat ↔ w = encode (i.withFields (fieldsOf w)) := by
  have ones4 (x : BitVec 4) : x &&& 15#4 = x := BitVec.and_allOnes
  have ones5 (x : BitVec 5) : x &&& 31#5 = x := BitVec.and_allOnes
  have ones6 (x : BitVec 6) : x &&& 63#6 = x := BitVec.and_allOnes
  rw [and_eq_iff_fields, eq_encode_iff]
  cases i <;>
    simp only [Instr.row, Instr.withFields, Instr.fields, fieldsZero, fieldsOf, Fields.mk.injEq, true_and] <;>
    simp [regField_eq_zero, ones4, ones5, ones6]

theorem row_matches_encode (i : Instr) : encode i &&& i.row.mask = i.row.pat := by
  rw [row_matches_iff, fieldsOf_encode, Instr.withFields_fields]

theorem exists_row_eq : ∀ r ∈ opcodeMap, ∃ i : Instr, i.row = r := by
  simp only [opcodeMap, List.forall_mem_cons, exists_apply_eq_apply, List.not_mem_nil, false_imp_iff, implies_true, and_self]

/-- Two rows whose patterns agree on the bits both masks test are one row. -/
theorem rows_disjoint : ∀ r ∈ opcodeMap, ∀ r' ∈ opcodeMap, r.pat &&& r'.mask = r'.pat &&& r.mask → r = r' := by
  decide

/-- What an instruction must satisfy beside its row's test is the row's bound on rd (R85). -/
theorem wellFormed_iff_rowBounds (i : Instr) :
    i.wellFormed = true ↔
      (i.row.mnemonic = "XGCD" → i.fields.rd.val ≤ 13) ∧ (i.row.mnemonic = "MRFACT" → i.fields.rd.val ≤ 14) := by
  cases i <;> simp [Instr.wellFormed, Instr.row, Instr.fields, fieldsZero]

/-- Settles O3: a word that decodes is an encoding, which its row matches; a word that a row matches is the encoding of the
row's instruction with the word's own operands. -/
theorem decodeFollowsOpcodeMap : Obligations.DecodeFollowsOpcodeMap := by
  unfold Obligations.DecodeFollowsOpcodeMap
  refine ⟨fun w r hr => ⟨?_, ?_⟩, fun w r hr r' hr' selects selects' => rows_disjoint r hr r' hr' ?_⟩
  · rintro ⟨i, decodes, rfl⟩
    obtain ⟨wf, rfl⟩ := decodeWord_eq_ok_iff.1 decodes
    rw [fieldsOf_encode]
    exact ⟨row_matches_encode i, (wellFormed_iff_rowBounds i).1 wf⟩
  · rintro ⟨selects, bounds⟩
    obtain ⟨i, rfl⟩ := exists_row_eq r hr
    have encodes := (row_matches_iff i w).1 selects
    have row := i.row_withFields (fieldsOf w)
    refine ⟨i.withFields (fieldsOf w), decodeWord_eq_ok_iff.2 ⟨?_, encodes⟩, row⟩
    rwa [wellFormed_iff_rowBounds, row, ← (eq_encode_iff _ _).1 encodes]
  · rw [← selects, ← selects', BitVec.and_assoc, BitVec.and_comm r.mask, BitVec.and_assoc]

end Sys2Proof
end

section
/-! Which CMD values are illegal commands, and what such a command does (30_encoding.md R87). -/

namespace Sys2Proof

section rejects
variable {z : Bool} {f : Fields} {i e n : Instr}

theorem ifZero_eq_error_iff : (∃ c, ifZero z i = .error c) ↔ z = false := by
  cases z <;> simp [ifZero]

theorem ifZero_bind_ifBound_eq_error_iff :
    (∃ c, (ifZero z i >>= ifBound) = .error c) ↔ z = false ∨ i.wellFormed = false := by
  cases z <;> cases h : i.wellFormed <;> simp [ifZero, ifBound, h, bind, Except.bind]

theorem decodeMod_eq_error_iff :
    (∃ c, decodeMod f e n = .error c) ↔ f.rs4 ≠ 0 ∨ (f.nw = true ∧ f.rs3 ≠ 0) := by
  cases h : f.nw <;> simp [decodeMod, h, ifZero_eq_error_iff, imp_iff_not_or, or_comm]

end rejects

/-- Causes 2, 4 and 5 of R87: those the dispatch on the opcode meets. -/
theorem decodeFields_eq_error_iff (f : Fields) :
    (∃ e, decodeFields f = .error e) ↔
      f.op.toNat ∉ Spec.assignedOpcodes ∨ Spec.MarkedFieldNonzero f ∨
        (f.op.toNat = 0x05 ∧ 13 < f.rd.val) ∨ (f.op.toNat = 0x08 ∧ 14 < f.rd.val) := by
  unfold decodeFields
  split
  case h_13 =>
    have unassigned : f.op.toNat ∉ Spec.assignedOpcodes := by simp_all [Spec.assignedOpcodes]
    exact iff_of_true ⟨_, rfl⟩ (.inl unassigned)
  all_goals
    rename_i opcode
    simp [ifZero_eq_error_iff, ifZero_bind_ifBound_eq_error_iff, decodeMod_eq_error_iff, Instr.wellFormed,
      Spec.MarkedFieldNonzero, Spec.assignedOpcodes, opcode, imp_iff_not_or, or_comm, or_left_comm]

/-- Causes 1 and 3 of R87: those met before the dispatch. -/
theorem decode_eq_error_iff (v : Word) :
    (∃ e, decode v = .error e) ↔
      v.toNat / 2 ^ 32 ≠ 0 ∨ (fieldsOf (v.setWidth 32)).res ≠ 0 ∨
        ∃ e, decodeFields (fieldsOf (v.setWidth 32)) = .error e := by
  rw [Ne, ← upperHalf_eq_zero_iff, decode, decodeWord]
  split
  next upper =>
    split
    next reserved => simp only [upper, reserved, not_true, false_or, ne_eq]
    next reserved => exact iff_of_true ⟨_, rfl⟩ (.inr (.inl reserved))
  next upper => exact iff_of_true ⟨_, rfl⟩ (.inl upper)

end Sys2Proof

namespace Sys2Proof.Machine

/-- A CMD write while idle is accepted, whatever its value (R180). -/
theorem State.busWrite_cmd_of_idle {s : State} (idle : s.busy = false) (v : Word) :
    s.busWrite 0x020 8 v = { s.accept v with resp := .writeOkay } := by
  have accepted : s.writeSlot v .cmd = s.accept v := if_neg (by simp [idle])
  rw [State.busWrite_of_slot (slotOf_page (by decide) (by decide)), ← accepted]
  rfl

theorem engineTurn_of_illegal {s : State} {v : Word} {e : Illegal} (pending : s.pending = some v)
    (illegal : decode v = .error e) : engineTurn s = .next (s.completedWith s.x s.mem 8) := by
  simp only [engineTurn, pending, illegal]
  rfl

/-- Settles O4: the causes met before the dispatch and those it meets are the five of R87, and the engine ends an illegal
command by `State.raise`. -/
theorem illegalCommandCausesAndEffect : Obligations.IllegalCommandCausesAndEffect := by
  unfold Obligations.IllegalCommandCausesAndEffect
  refine ⟨fun v => ?_, fun v e illegal => ⟨fun s idle => ?_, fun s pending => engineTurn_of_illegal pending illegal⟩⟩
  · rw [decode_eq_error_iff, decodeFields_eq_error_iff]
    simp only [or_left_comm]
  · rw [State.busWrite_cmd_of_idle idle, State.accept]

end Sys2Proof.Machine
end

section
/-! The native-width sentinel of the modular commands (30_encoding.md R84; 40_modarith.md R100). -/

namespace Sys2Proof.Machine

theorem effMod_explicitMod_zero : effMod (.explicitMod 0) = effMod .nativeWidth := rfl

/-- Settles O34: the two forms of each command differ in the modulus only, and its effective value is the same. -/
theorem zeroModulusIsNativeWidth : Obligations.ZeroModulusIsNativeWidth := by
  unfold Obligations.ZeroModulusIsNativeWidth
  intro rd ra rb rm s zero
  simp only [exec, execMadd, execMaddNw, execMmul, execMmulNw, execMpow, execMpowNw, maddResult, mmulResult, mpowResult,
    zero, effMod_explicitMod_zero, and_self]

end Sys2Proof.Machine
end

section
/-! What the modular engine computes, in the statements' words (40_modarith.md R100 to R106). -/

namespace Sys2Proof.Machine

/-- The modulus that a value with the sentinel of R100 selects is the one the statements name. -/
theorem sentinelMod_eq_modulus (m : Word) : sentinelMod m = Spec.modulus m := by
  have zero_iff : m.toNat = 0 ↔ m = 0 := BitVec.toNat_inj (y := 0)
  simp only [sentinelMod, Spec.modulus, zero_iff, nativeMod, Nat.reducePow]

theorem effMod_explicitMod (m : Word) : effMod (.explicitMod m) = Spec.modulus m := sentinelMod_eq_modulus m

theorem effMod_nativeWidth : effMod .nativeWidth = 2 ^ 64 := rfl

section results
variable (s : State) (ra rb : Reg) (m : Modulus)

theorem maddResult_eq :
    maddResult s ra rb m = BitVec.ofNat 64 (((s.reg ra).toNat + (s.reg rb).toNat) % effMod m) := rfl

theorem mmulResult_eq :
    mmulResult s ra rb m = BitVec.ofNat 64 ((s.reg ra).toNat * (s.reg rb).toNat % effMod m) := rfl

/-- Square-and-multiply gives the power over the integers, the exponent whole (R103, R106). -/
theorem mpowResult_eq :
    mpowResult s ra rb m = BitVec.ofNat 64 ((s.reg ra).toNat ^ (s.reg rb).toNat % effMod m) := by
  rw [mpowResult, residue, modPow_eq]

end results

end Sys2Proof.Machine

/-! The settling theorems stand in a namespace of their own: `Machine.mpowResult` and its two siblings are the model's
functions. -/

namespace Sys2Proof.Machine.ModularEngine

/-- Settles O33: the value written is the reduced integer power (`mpowResult_eq`), under either modulus. -/
theorem mpowResult : Obligations.MpowResult := by
  unfold Obligations.MpowResult
  intro rd ra rb rm s
  rw [← effMod_explicitMod, ← effMod_nativeWidth, ← mpowResult_eq, ← mpowResult_eq]
  simp only [exec, execMpow, execMpowNw, State.completeReg_eq_completedWith, and_self]

/-- Settles O31: the value written is the reduced sum, under either modulus. -/
theorem maddResult : Obligations.MaddResult := by
  unfold Obligations.MaddResult
  intro rd ra rb rm s
  rw [← effMod_explicitMod, ← effMod_nativeWidth, ← maddResult_eq, ← maddResult_eq]
  simp only [exec, execMadd, execMaddNw, State.completeReg_eq_completedWith, and_self]

/-- Settles O32: the value written is the reduced full product, under either modulus. -/
theorem mmulResult : Obligations.MmulResult := by
  unfold Obligations.MmulResult
  intro rd ra rb rm s
  rw [← effMod_explicitMod, ← effMod_nativeWidth, ← mmulResult_eq, ← mmulResult_eq]
  simp only [exec, execMmul, execMmulNw, State.completeReg_eq_completedWith, and_self]

end Sys2Proof.Machine.ModularEngine
end

section
/-! The number-theory unit: Euclid's loop is `Nat.gcd`, and what the extended loop returns (41_numtheory.md R120 to R125). -/

namespace Sys2Proof.Machine

/-! ### GCD -/

/-- One Euclidean turn keeps the greatest common divisor. -/
theorem gcd_mod_eq (a b : Nat) : Nat.gcd b (a % b) = Nat.gcd a b := by
  rw [Nat.gcd_comm, ← Nat.gcd_rec, Nat.gcd_comm]

theorem gcdLoop_eq (fuel a b : Nat) (hfuel : b ≤ fuel) : gcdLoop fuel a b = Nat.gcd a b := by
  induction fuel generalizing a b with
  | zero =>
    obtain rfl : b = 0 := by omega
    exact (Nat.gcd_zero_right a).symm
  | succ fuel ih =>
    by_cases h : b = 0
    · subst h
      exact (Nat.gcd_zero_right a).symm
    · have falls : a % b < b := Nat.mod_lt _ (Nat.pos_of_ne_zero h)
      rw [gcdLoop, if_neg h, ih _ _ (by omega), gcd_mod_eq]

theorem gcdNat_eq (a b : Nat) : gcdNat a b = Nat.gcd a b := gcdLoop_eq b a b le_rfl

/-- Settles O37: the word written is that of Euclid's loop, which is the greatest common divisor (`gcdNat_eq`). -/
theorem gcdResult : Obligations.GcdResult := by
  unfold Obligations.GcdResult
  intro rd ra rb s
  rw [← gcdNat_eq]
  simp only [exec, execGcd, State.completeReg_eq_completedWith]

/-! ### The extended gcd -/

/-- What every turn of R121's loop on `a` and `b` keeps: the remainders' gcd is that of `a` and `b`, and each remainder is
the combination of `a` and `b` with its coefficients. -/
structure IsCombination (a b r0 r1 : Nat) (s0 s1 t0 t1 : Int) : Prop where
  gcd : Nat.gcd r0 r1 = Nat.gcd a b
  current : (a : Int) * s0 + b * t0 = r0
  next : (a : Int) * s1 + b * t1 = r1

/-- The new remainder is `r0 - q * r1`, and so is the combination that the new coefficients give. -/
theorem IsCombination.turn {a b r0 r1 : Nat} {s0 s1 t0 t1 : Int} (h : IsCombination a b r0 r1 s0 s1 t0 t1) :
    IsCombination a b r1 (r0 % r1) s1 (s0 - (r0 / r1 : Nat) * s1) t1 (t0 - (r0 / r1 : Nat) * t1) where
  gcd := (gcd_mod_eq r0 r1).trans h.gcd
  current := h.next
  next := by
    have division : (r1 : Int) * (r0 / r1 : Nat) + (r0 % r1 : Nat) = r0 := by exact_mod_cast Nat.div_add_mod r0 r1
    linear_combination h.current - (r0 / r1 : Nat) * h.next - division

theorem xgcdInt_isCombination (a b : Nat) :
    ∃ s t, IsCombination a b (xgcdInt a b).d 0 (xgcdInt a b).x s (xgcdInt a b).y t :=
  xgcdLoop_keeps (fun _ _ _ _ _ _ _ h => h.turn) b a b 1 0 0 1 le_rfl ⟨rfl, by ring, by ring⟩

theorem xgcdInt_d (a b : Nat) : (xgcdInt a b).d = Nat.gcd a b := by
  obtain ⟨_, _, h⟩ := xgcdInt_isCombination a b
  exact (Nat.gcd_zero_right _).symm.trans h.gcd

theorem xgcdInt_bezout (a b : Nat) :
    (a : Int) * (xgcdInt a b).x + (b : Int) * (xgcdInt a b).y = (xgcdInt a b).d := by
  obtain ⟨_, _, h⟩ := xgcdInt_isCombination a b
  exact h.current

theorem xgcdLoop_zero (fuel r0 : Nat) (s0 s1 t0 t1 : Int) : xgcdLoop fuel r0 0 s0 s1 t0 t1 = ⟨r0, s0, t0⟩ := by
  cases fuel <;> rfl

/-- With first operand 0 the one turn has quotient 0 and exchanges the columns. -/
theorem xgcdInt_zero_left {b : Nat} (hb : b ≠ 0) : xgcdInt 0 b = ⟨b, 0, 1⟩ := by
  obtain ⟨fuel, rfl⟩ := Nat.exists_eq_succ_of_ne_zero hb
  rw [xgcdInt, xgcdLoop, if_neg hb, Nat.zero_sub, xgcdLoop_zero]

/-- Settles O39: every turn keeps the gcd and both combinations (`IsCombination`), so the result has them. -/
theorem xgcdIsBezout : Obligations.XgcdIsBezout := by
  unfold Obligations.XgcdIsBezout
  exact ⟨fun a b => ⟨xgcdInt_d a b, xgcdInt_bezout a b⟩, fun a => xgcdLoop_zero 0 a 1 0 0 1, fun _ => xgcdInt_zero_left⟩

/-- The loop's variables are R121's after some number of turns from `a` and `b`, and no earlier turn found r1 = 0. -/
def XgcdReaches (a b r0 r1 : Nat) (s0 s1 t0 t1 : Int) : Prop :=
  ∃ n, Spec.xgcdAfter a b n = ⟨r0, r1, s0, s1, t0, t1⟩ ∧ ∀ k < n, (Spec.xgcdAfter a b k).r1 ≠ 0

/-- A turn of R121 on naturals, the new remainder written as the loop's lemmas write it. -/
theorem xgcdTurn_natCast (r0 r1 : Nat) (s0 s1 t0 t1 : Int) :
    Spec.xgcdTurn ⟨r0, r1, s0, s1, t0, t1⟩ =
      ⟨r1, (r0 % r1 : Nat), s1, s0 - (r0 / r1 : Nat) * s1, t1, t0 - (r0 / r1 : Nat) * t1⟩ := by
  have remainder : (r0 : Int) - r0 / r1 * r1 = (r0 % r1 : Nat) := by rw [Int.natCast_mod, Int.emod_def, mul_comm]
  simp only [Spec.xgcdTurn, remainder, Int.natCast_ediv]

theorem xgcdAfter_succ (a b n : Nat) : Spec.xgcdAfter a b (n + 1) = Spec.xgcdTurn (Spec.xgcdAfter a b n) :=
  Function.iterate_succ_apply' ..

theorem XgcdReaches.turn {a b r0 r1 : Nat} {s0 s1 t0 t1 : Int} (hr : r1 ≠ 0) (h : XgcdReaches a b r0 r1 s0 s1 t0 t1) :
    XgcdReaches a b r1 (r0 % r1) s1 (s0 - (r0 / r1 : Nat) * s1) t1 (t0 - (r0 / r1 : Nat) * t1) := by
  obtain ⟨n, vars, before⟩ := h
  refine ⟨n + 1, by rw [xgcdAfter_succ, vars, xgcdTurn_natCast], fun k hk => ?_⟩
  obtain hk | rfl := Nat.lt_succ_iff_lt_or_eq.1 hk
  · exact before k hk
  · rw [vars]
    exact Int.natCast_ne_zero.2 hr

/-- The model's loop stops at the first turn of R121's iteration with r1 = 0. -/
theorem xgcdInt_reached (a b : Nat) :
    ∃ s t, XgcdReaches a b (xgcdInt a b).d 0 (xgcdInt a b).x s (xgcdInt a b).y t :=
  xgcdLoop_keeps (fun _ _ _ _ _ _ => XgcdReaches.turn) b a b 1 0 0 1 le_rfl ⟨0, rfl, by simp⟩

/-- The i-th register after `rd`, where there is one (R82). -/
theorem eq_nextReg_iff {r rd : Reg} {i : Nat} (hi : rd.val + i < 16) : r = nextReg rd i ↔ r.val = rd.val + i := by
  rw [Fin.ext_iff, nextReg, Fin.val_ofNat, Nat.mod_eq_of_lt hi]

/-- Reading a register after the writes of three consecutive ones: they are distinct, so the order of the writes does not
show. -/
theorem State.reg_setReg_three {rd : Reg} (hrd : rd.val ≤ 13) (s : State) (u v w : Word) (r : Reg) :
    (((s.setReg rd u).setReg (nextReg rd 1) v).setReg (nextReg rd 2) w).reg r =
      if r.val = rd.val then u else if r.val = rd.val + 1 then v else if r.val = rd.val + 2 then w else s.reg r := by
  have isFirst : r = nextReg rd 1 ↔ r.val = rd.val + 1 := eq_nextReg_iff (by omega)
  have isSecond : r = nextReg rd 2 ↔ r.val = rd.val + 2 := eq_nextReg_iff (by omega)
  simp only [State.reg_setReg, isFirst, isSecond, Fin.ext_iff]
  grind

/-- Settles O38: the triple written is that of the first turn with r1 = 0 (`xgcdInt_reached`), and the three
destinations are distinct registers (`State.reg_setReg_three`). -/
theorem xgcdResult : Obligations.XgcdResult := by
  unfold Obligations.XgcdResult
  refine ⟨fun rd ra rb s hrd => ?_, fun rd ra rb s hrd => ?_⟩
  · rw [exec, execXgcd, if_neg (by omega)]
    rfl
  · obtain ⟨_, _, n, vars, before⟩ := xgcdInt_reached (s.reg ra).toNat (s.reg rb).toNat
    refine ⟨n, _, by rw [vars]; rfl, before, by rw [exec, execXgcd, if_pos hrd], rfl, fun r => ?_⟩
    rw [vars, State.complete_eq_finish, State.reg_finish, State.reg_setReg_three hrd, BitVec.ofInt_natCast]
    rfl

/-! ### The modular inverse -/

/-- An integer in the range of a word is the unsigned reading of its truncation (R8). -/
theorem toNat_trunc64 {v : Int} (nonneg : 0 ≤ v) (lt : v < 2 ^ 64) : ((trunc64 v).toNat : Int) = v := by
  rw [trunc64, BitVec.toNat_ofInt, Int.emod_eq_of_lt nonneg (by exact_mod_cast lt), Int.toNat_of_nonneg nonneg]

theorem trunc64_add (v : Int) (m : Word) : trunc64 v + m = trunc64 (v + m.toNat) := by
  rw [trunc64, trunc64, BitVec.ofInt_add, BitVec.ofInt_natCast, BitVec.ofNat_toNat, BitVec.setWidth_eq]

/-- The high bit of a truncated coefficient is its sign: R122's "underflowed" test finds the negative ones. -/
theorem trunc64_getLsbD_63 {m : Word} {x : Int} (bound : 2 * x.natAbs ≤ max 2 m.toNat) :
    (trunc64 x).getLsbD 63 = decide (x < 0) := by
  have sign := BitVec.msb_eq_toInt (x := trunc64 x)
  rwa [show (trunc64 x).toInt = x from sint64_trunc64 m x bound] at sign

/-- R122's correction adds `m` to a negative coefficient, over the integers: the sum fits a word. -/
theorem correction_toNat {m : Word} (hm : m ≠ 0) {x : Int} (bound : 2 * x.natAbs ≤ max 2 m.toNat) :
    ((if (trunc64 x).getLsbD 63 then trunc64 x + m else trunc64 x).toNat : Int) = if x < 0 then x + m.toNat else x := by
  have positive : m.toNat ≠ 0 := fun h => hm (BitVec.eq_of_toNat_eq h)
  have fits := m.isLt
  rw [trunc64_getLsbD_63 bound, trunc64_add]
  by_cases negative : x < 0
  · simpa [negative] using toNat_trunc64 (v := x + m.toNat) (by omega) (by omega)
  · simpa [negative] using toNat_trunc64 (v := x) (by omega) (by omega)

/-- With an inverse, minv is the true coefficient reduced modulo `m` (R122). -/
theorem minvWord_of_coprime {a m : Word} (hm : m ≠ 0) (coprime : Nat.gcd a.toNat m.toNat = 1) :
    ((minvWord a m).toNat : Int) = (xgcdInt a.toNat m.toNat).x % m.toNat := by
  have corrected := correction_toNat hm (xgcdInt_coefficients_le a.toNat m.toNat).1
  simp only [minvWord, xgcdInt_d, coprime, if_true, BitVec.toNat_umod, Int.natCast_mod, corrected]
  split
  · exact Int.add_emod_right ..
  · rfl

theorem minvWord_of_not_coprime {a m : Word} (h : Nat.gcd a.toNat m.toNat ≠ 1) : minvWord a m = 0 := by
  rw [minvWord, xgcdInt_d]
  exact if_neg h

/-- Bezout's identity modulo `m` makes the coefficient of `a` its inverse. -/
theorem mul_minvWord_mod {a m : Word} (hm : m ≠ 0) (coprime : Nat.gcd a.toNat m.toNat = 1) :
    a.toNat * (minvWord a m).toNat % m.toNat = 1 % m.toNat := by
  have bezout := xgcdInt_bezout a.toNat m.toNat
  rw [xgcdInt_d, coprime] at bezout
  have inverse : (a.toNat : Int) * (minvWord a m).toNat ≡ 1 [ZMOD m.toNat] :=
    calc (a.toNat : Int) * (minvWord a m).toNat
        ≡ a.toNat * (xgcdInt a.toNat m.toNat).x [ZMOD m.toNat] := by
          rw [minvWord_of_coprime hm coprime]
          exact (Int.mod_modEq _ _).mul_left _
      _ ≡ a.toNat * (xgcdInt a.toNat m.toNat).x + m.toNat * (xgcdInt a.toNat m.toNat).y [ZMOD m.toNat] :=
          Int.modEq_add_fac_self.symm
      _ = 1 := bezout
  exact_mod_cast inverse

theorem minvWord_lt (a : Word) {m : Word} (hm : m ≠ 0) : (minvWord a m).toNat < m.toNat := by
  have positive : 0 < m := (BitVec.pos_iff_ne_zero m).2 hm
  simp only [minvWord]
  split
  · exact BitVec.umod_lt _ positive
  · exact positive

/-- Settles O41: the word written is `minvWord`, the inverse where Bezout's identity gives one (`mul_minvWord_mod`). -/
theorem minvResult : Obligations.MinvResult := by
  unfold Obligations.MinvResult
  refine ⟨fun rd ra rm s zero => ?_, fun rd ra rm s nonzero => ⟨minvWord (s.reg ra) (s.reg rm), ?_, ?_, ?_⟩⟩
  · rw [exec, execMinv, if_pos zero]
    rfl
  · rw [exec, execMinv, if_neg nonzero, State.completeReg_eq_completedWith]
  · exact fun coprime => ⟨minvWord_lt _ nonzero, mul_minvWord_mod nonzero coprime⟩
  · exact minvWord_of_not_coprime

end Sys2Proof.Machine
end

section
/-! The primality unit: the factorisation, the closed form of a single-base round, the twelve-base test, and that every
prime passes it (42_primality.md R140 to R147). -/

namespace Sys2Proof.Machine

/-! ### MRFACT -/

/-- The trailing zero bits of a `t` that fits the fuel are the power of two in it, and an odd cofactor is left. -/
theorem ctz_spec {fuel t : Nat} (nonzero : t ≠ 0) (fits : t < 2 ^ fuel) :
    ctz fuel t < fuel ∧ ∃ q, q % 2 = 1 ∧ t = 2 ^ ctz fuel t * q := by
  induction fuel generalizing t with
  | zero => omega
  | succ fuel ih =>
    rw [ctz]
    split
    next odd => exact ⟨fuel.succ_pos, t, odd, by rw [pow_zero, one_mul]⟩
    next even =>
      obtain ⟨lt, q, odd, half⟩ := ih (t := t / 2) (by omega) (by omega)
      refine ⟨Nat.succ_lt_succ lt, q, odd, ?_⟩
      rw [pow_succ, mul_right_comm, ← half]
      omega

/-- mrFact(1): n - 1 is 0 and has no odd part (R141). -/
theorem mrFact_one : mrFact 1 = none := rfl

/-- For any other n, mrFact gives n - 1 (modulo 2^64) as 2^k · q with q odd (R141). -/
theorem mrFact_of_ne_one {n : Word} (h : n ≠ 1) :
    ∃ k q, mrFact n = some (k, q) ∧ k ≤ 63 ∧ q.toNat % 2 = 1 ∧ (n - 1).toNat = 2 ^ k * q.toNat := by
  have nonzero : n - 1 ≠ 0 := sub_ne_zero.2 h
  obtain ⟨lt, q, odd, factored⟩ := ctz_spec (fun zero => nonzero (BitVec.eq_of_toNat_eq zero)) (n - 1).isLt
  have cofactor : ((n - 1) >>> ctz 64 (n - 1).toNat).toNat = q := by
    rw [BitVec.toNat_ushiftRight, Nat.shiftRight_eq_div_pow]
    exact Nat.div_eq_of_eq_mul_right (by positivity) factored
  refine ⟨_, _, if_neg nonzero, Nat.le_of_lt_succ lt, ?_⟩
  rw [cofactor]
  exact ⟨odd, factored⟩

/-- Reading a register after the writes of two consecutive ones. -/
theorem State.reg_setReg_two {rd : Reg} (hrd : rd.val ≤ 14) (s : State) (u v : Word) (r : Reg) :
    ((s.setReg rd u).setReg (nextReg rd 1) v).reg r =
      if r.val = rd.val then u else if r.val = rd.val + 1 then v else s.reg r := by
  have isFirst : r = nextReg rd 1 ↔ r.val = rd.val + 1 := eq_nextReg_iff (by omega)
  simp only [State.reg_setReg, isFirst, Fin.ext_iff]
  grind

/-- Settles O42: the pair written is that of `mrFact`, whose only failure is n = 1, and the two destinations are distinct
registers (`State.reg_setReg_two`). -/
theorem mrfactResult : Obligations.MrfactResult := by
  unfold Obligations.MrfactResult
  refine ⟨fun rd rn s hrd => ?_, fun rd rn s hrd one => ?_, fun rd rn s hrd notOne => ?_⟩
  · rw [exec, execMrfact, if_neg (by omega)]
    rfl
  · rw [exec, execMrfact, if_pos hrd, one, mrFact_one]
    rfl
  · obtain ⟨k, q, result, hk, odd, factored⟩ := mrFact_of_ne_one notOne
    refine ⟨k, q.toNat, _, hk, odd, factored, by rw [exec, execMrfact, if_pos hrd, result], rfl, fun r => ?_⟩
    rw [State.complete_eq_finish, State.reg_finish, State.reg_setReg_two hrd, BitVec.ofNat_toNat, BitVec.setWidth_eq]

/-! ### MRWIT -/

/-- The squarings of R142 look for `t` among the residues of y^(2^i), i < k. -/
theorem mrSquarings_iff (modulus t k y : Nat) :
    mrSquarings modulus t k (y % modulus) = true ↔ ∃ i < k, y ^ 2 ^ i % modulus = t := by
  induction k generalizing y with
  | zero => simp [mrSquarings]
  | succ k ih =>
    have square : modMul (y % modulus) (y % modulus) modulus = y ^ 2 % modulus := by
      rw [modMul, ← Nat.mul_mod, ← pow_two]
    have later (i : Nat) : (y ^ 2) ^ 2 ^ i = y ^ 2 ^ (i + 1) := by rw [← pow_mul, ← pow_succ']
    rw [mrSquarings, square, Bool.if_true_left, Bool.or_eq_true, ih, decide_eq_true_iff, Nat.exists_lt_succ_left,
      pow_zero, pow_one]
    simp only [later]

/-- n - 1 as a word is the largest residue of the modulus that n selects, for n = 0 as well. -/
theorem toNat_sub_one (n : Word) : (n - 1).toNat = Spec.modulus n - 1 := by
  have bound := n.isLt
  rw [Spec.modulus]
  split <;> bv_omega

/-- The round of R142 is its closed form. -/
theorem mrWit_iff (n a : Word) (k : Nat) (q : Word) :
    mrWit n a k q = true ↔ Spec.Probable (Spec.modulus n) a.toNat k q.toNat := by
  have squarings := mrSquarings_iff (Spec.modulus n) (Spec.modulus n - 1) k (a.toNat ^ q.toNat)
  simp only [← pow_mul] at squarings
  rw [mrWit, modPow_eq, sentinelMod_eq_modulus, toNat_sub_one, Spec.Probable, Bool.if_true_left, Bool.or_eq_true,
    decide_eq_true_iff, squarings]

/-- Settles O43: the bit written is that of `mrWit`, which is the closed form (`mrWit_iff`). -/
theorem mrwitResult : Obligations.MrwitResult := by
  unfold Obligations.MrwitResult
  refine ⟨fun rd rn ra rk rq s large => ?_, fun rd rn ra rk rq s small => ⟨_, mrWit_iff _ _ _ _, ?_⟩⟩
  · rw [exec, execMrwit, if_pos large]
    rfl
  · rw [exec, execMrwit, if_neg (by omega), State.completeReg_eq_completedWith, verdict]

/-! ### MRTEST -/

/-- The exponent of two and the odd part of a number are determined. -/
theorem twoPow_mul_odd_unique {k k' q q' : Nat} (odd : q % 2 = 1) (odd' : q' % 2 = 1) (h : 2 ^ k * q = 2 ^ k' * q') :
    k = k' ∧ q = q' := by
  have nonzero : 2 ^ k * q ≠ 0 := Nat.mul_ne_zero (by positivity) (by omega)
  have parts := Nat.maxPowDvdDiv_of_pow_mul_eq nonzero rfl (by omega)
  have parts' := Nat.maxPowDvdDiv_of_pow_mul_eq nonzero h.symm (by omega)
  exact Prod.mk.inj (parts.symm.trans parts')

theorem modulus_of_odd {n : Word} (odd : n.toNat % 2 = 1) : Spec.modulus n = n.toNat := if_neg (by omega)

/-- The bases fit a word. -/
theorem toNat_ofNat_of_mem_bases {a : Nat} (ha : a ∈ bases) : (BitVec.ofNat 64 a).toNat = a := by
  have small : ∀ a ∈ bases, a < 2 ^ 64 := by decide
  rw [BitVec.toNat_ofNat, Nat.mod_eq_of_lt (small a ha)]

/-- A round for every base says probable. -/
theorem all_mrWit_iff {n : Word} (odd : n.toNat % 2 = 1) (k : Nat) (q : Word) :
    bases.all (fun a => mrWit n (BitVec.ofNat 64 a) k q) = true ↔ ∀ a ∈ bases, Spec.Probable n.toNat a k q.toNat := by
  rw [List.all_eq_true]
  refine forall₂_congr fun a ha => ?_
  rw [mrWit_iff, modulus_of_odd odd, toNat_ofNat_of_mem_bases ha]

/-- The test of R143 is the statements' verdict: the factorisation that it computes is the only one. -/
theorem mrTest_iff (n : Word) : mrTest n = true ↔ Spec.Passes n.toNat := by
  rw [mrTest, Spec.Passes, Bool.if_true_left, Bool.or_eq_true, decide_eq_true_iff, List.contains_iff_mem]
  refine or_congr_right ?_
  by_cases odd : n.toNat % 2 = 1
  case neg => simp [Nat.mod_two_ne_one.1 odd]
  by_cases one : n = 1
  case pos => simp [one]
  obtain ⟨k, q, result, -, oddPart, factored⟩ := mrFact_of_ne_one one
  rw [toNat_sub_one, modulus_of_odd odd] at factored
  rw [if_neg (by omega), if_neg one, result]
  refine (all_mrWit_iff odd k q).trans ⟨fun all => ?_, ?_⟩
  · exact ⟨odd, fun h => one (BitVec.eq_of_toNat_eq h), k, q.toNat, oddPart, factored, all⟩
  · rintro ⟨-, -, k', q', oddPart', factored', all⟩
    obtain ⟨rfl, rfl⟩ := twoPow_mul_odd_unique oddPart oddPart' (factored.symm.trans factored')
    exact all

/-- Settles O44: the bit written is that of `mrTest`, which is the statements' verdict (`mrTest_iff`). -/
theorem mrtestResult : Obligations.MrtestResult := by
  unfold Obligations.MrtestResult
  intro rd rn s
  refine ⟨_, mrTest_iff _, ?_⟩
  rw [exec, execMrtest, State.completeReg_eq_completedWith, verdict]

/-! ### Every prime passes -/

section prime
variable {p : Nat} [Fact p.Prime]

/-- Modulo a prime, 1 has no square roots but 1 and -1: going back from y^(2^k) = 1 by square roots, the first value that
is not 1 is -1. -/
theorem eq_one_or_exists_eq_neg_one {y : ZMod p} {k : Nat} (h : y ^ 2 ^ k = 1) : y = 1 ∨ ∃ i < k, y ^ 2 ^ i = -1 := by
  induction k with
  | zero => exact .inl (by simpa using h)
  | succ k ih =>
    rw [pow_succ, pow_mul, sq_eq_one_iff] at h
    obtain one | negOne := h
    · exact (ih one).imp_right fun ⟨i, hi, root⟩ => ⟨i, hi.trans k.lt_succ_self, root⟩
    · exact .inr ⟨k, k.lt_succ_self, negOne⟩

theorem mod_eq_one_iff (x : Nat) : x % p = 1 ↔ (x : ZMod p) = 1 := by
  have lt : 1 < p := (Fact.out : p.Prime).one_lt
  rw [← Nat.cast_one (R := ZMod p), ZMod.natCast_eq_natCast_iff', Nat.mod_eq_of_lt lt]

theorem mod_eq_sub_one_iff (x : Nat) : x % p = p - 1 ↔ (x : ZMod p) = -1 := by
  have pos : 0 < p := (Fact.out : p.Prime).pos
  have negOne : ((p - 1 : Nat) : ZMod p) = -1 := by rw [Nat.cast_pred pos, ZMod.natCast_self, zero_sub]
  rw [← negOne, ZMod.natCast_eq_natCast_iff', Nat.mod_eq_of_lt (Nat.sub_lt pos one_pos)]

/-- By Fermat's little theorem a base that p does not divide calls p probable. -/
theorem probable_of_prime {a k q : Nat} (ha : ¬ p ∣ a) (factored : p - 1 = 2 ^ k * q) : Spec.Probable p a k q := by
  have fermat : ((a : ZMod p) ^ q) ^ 2 ^ k = 1 := by
    rw [← pow_mul, mul_comm, ← factored]
    exact ZMod.pow_card_sub_one_eq_one (mt (ZMod.natCast_eq_zero_iff a p).1 ha)
  simpa only [Spec.Probable, mod_eq_one_iff, mod_eq_sub_one_iff, Nat.cast_pow, pow_mul] using
    eq_one_or_exists_eq_neg_one fermat

end prime

/-- A prime that is no base is odd and divides none of the bases, which are primes themselves. -/
theorem passes_of_prime {p : Nat} (prime : p.Prime) : Spec.Passes p := by
  have : Fact p.Prime := ⟨prime⟩
  refine or_iff_not_imp_left.2 fun notBase => ?_
  have basesPrime : ∀ a ∈ bases, a.Prime := by norm_num [bases]
  have coprime : ∀ a ∈ bases, ¬ p ∣ a := fun a ha divides =>
    notBase ((Nat.prime_dvd_prime_iff_eq prime (basesPrime a ha)).1 divides ▸ ha)
  have odd : p % 2 = 1 := prime.eq_two_or_odd.resolve_left (by rintro rfl; exact notBase (by decide))
  obtain ⟨k, q, oddPart, factored⟩ := Nat.exists_eq_two_pow_mul_odd (n := p - 1) (by have := prime.two_le; omega)
  exact ⟨odd, prime.ne_one, k, q, Nat.odd_iff.1 oddPart, factored, fun a ha => probable_of_prime (coprime a ha) factored⟩

/-- Settles O45: a prime passes (`passes_of_prime`), and the word written is then 1. -/
theorem mrtestAcceptsEveryPrime : Obligations.MrtestAcceptsEveryPrime := by
  unfold Obligations.MrtestAcceptsEveryPrime
  intro rd rn s prime
  obtain ⟨b, passes, result⟩ := mrtestResult rd rn s
  rw [result, passes.2 (passes_of_prime prime), if_pos rfl]

end Sys2Proof.Machine
end

section
/-! RSA64 (43_rsa.md R162, R163, R166). -/

namespace Sys2Proof.Machine

section rsa64
variable {s : State} {rm rn : Reg}

theorem exec_rsa64_of_gt (rd rk : Reg) (h : (s.reg rn).toNat < (s.reg rm).toNat) :
    exec (.rsa64 rd rm rk rn) s = .next (s.raise .outOfRange) :=
  if_pos h

theorem exec_rsa64_of_le (rd rk : Reg) (h : (s.reg rm).toNat ≤ (s.reg rn).toNat) :
    exec (.rsa64 rd rm rk rn) s = .next (s.completeReg rd
      (BitVec.ofNat 64 ((s.reg rm).toNat ^ (s.reg rk).toNat % Spec.modulus (s.reg rn)))) := by
  rw [← effMod_explicitMod, ← mpowResult_eq]
  exact if_neg h.not_gt

end rsa64

/-- Settles O46: the two branches of the range check. -/
theorem rsaNarrowResult : Obligations.RsaNarrowResult := by
  unfold Obligations.RsaNarrowResult
  exact ⟨fun rd rm rk rn s h => exec_rsa64_of_gt rd rk h, fun rd rm rk rn s h => exec_rsa64_of_le rd rk h⟩

/-! ### The round trip -/

/-- Fermat's little theorem for every base, a multiple of p included: an exponent congruent to 1 gives the base back. -/
theorem pow_modEq_self {p k : Nat} (m : Nat) (prime : p.Prime) (one : k ≡ 1 [MOD p - 1]) (pos : k ≠ 0) :
    m ^ k ≡ m [MOD p] := by
  have : Fact p.Prime := ⟨prime⟩
  rw [← ZMod.natCast_eq_natCast_iff, Nat.cast_pow]
  by_cases zero : (m : ZMod p) = 0
  · rw [zero, zero_pow pos]
  · rw [pow_eq_pow_of_modEq one (ZMod.pow_card_sub_one_eq_one zero), pow_one]

/-- Modulo lcm(p - 1, q - 1) the number 0 is not 1: only p = q = 2 makes that modulus 1. -/
theorem ne_zero_of_modEq_one {p q k : Nat} (ne : p ≠ q)
    (one : k ≡ 1 [MOD Nat.lcm (p - 1) (q - 1)]) : k ≠ 0 := by
  rintro rfl
  have unit : Nat.lcm (p - 1) (q - 1) ∣ 1 := Nat.modEq_zero_iff_dvd.mp one.symm
  have hp1 : p - 1 = 1 := Nat.dvd_one.mp ((Nat.dvd_lcm_left _ _).trans unit)
  have hq1 : q - 1 = 1 := Nat.dvd_one.mp ((Nat.dvd_lcm_right _ _).trans unit)
  omega

/-- RSA's law (R166, G3): the congruence holds modulo p and modulo q, so modulo their product. -/
theorem pow_pow_mod_eq_self {p q e d m : Nat} (hp : p.Prime) (hq : q.Prime) (ne : p ≠ q)
    (inverse : e * d ≡ 1 [MOD Nat.lcm (p - 1) (q - 1)]) (lt : m < p * q) :
    (m ^ e % (p * q)) ^ d % (p * q) = m := by
  have pos := ne_zero_of_modEq_one ne inverse
  have modP : m ^ (e * d) ≡ m [MOD p] := pow_modEq_self m hp (inverse.of_dvd (Nat.dvd_lcm_left _ _)) pos
  have modQ : m ^ (e * d) ≡ m [MOD q] := pow_modEq_self m hq (inverse.of_dvd (Nat.dvd_lcm_right _ _)) pos
  have modPQ : m ^ (e * d) ≡ m [MOD p * q] :=
    (Nat.modEq_and_modEq_iff_modEq_mul ((Nat.coprime_primes hp hq).mpr ne)).mp ⟨modP, modQ⟩
  rw [← Nat.pow_mod, ← pow_mul, modPQ, Nat.mod_eq_of_lt lt]

/-- Settles O47: the cipher text lies below n, so the second command is in range too, and RSA's law
(`pow_pow_mod_eq_self`) gives the message. -/
theorem rsaNarrowRoundTrip : Obligations.RsaNarrowRoundTrip := by
  unfold Obligations.RsaNarrowRoundTrip
  intro rc rm re rn s p q d hp hq ne key lt inverse
  have modulus : Spec.modulus (s.reg rn) = p * q := by
    rw [Spec.modulus, key, if_neg (by omega)]
  refine ⟨_, exec_rsa64_of_le rc re (key ▸ lt.le), rfl, fun rp ra rd rk t' cipher exponent holdsKey => ?_⟩
  have cipherValue : (t'.reg ra).toNat = (s.reg rm).toNat ^ (s.reg re).toNat % (p * q) := by
    have below := Nat.mod_lt ((s.reg rm).toNat ^ (s.reg re).toNat) (lt.pos : 0 < p * q)
    have fits : p * q < 2 ^ 64 := key ▸ (s.reg rn).isLt
    rw [cipher, State.completeReg_eq_finish, State.reg_finish, State.reg_setReg_self, modulus, BitVec.toNat_ofNat,
      Nat.mod_eq_of_lt (below.trans fits)]
  have inRange : (t'.reg ra).toNat ≤ (t'.reg rk).toNat := by
    rw [cipherValue, holdsKey, key]
    exact (Nat.mod_lt _ lt.pos).le
  refine ⟨_, exec_rsa64_of_le rp rd inRange, rfl, ?_⟩
  rw [State.completeReg_eq_finish, State.reg_finish, State.reg_setReg_self, cipherValue, exponent, holdsKey, modulus,
    pow_pow_mod_eq_self hp hq ne inverse lt, BitVec.ofNat_toNat, BitVec.setWidth_eq]

end Sys2Proof.Machine
end

section
/-! RSAW's conversation, one request and its reply at a time (43_rsa.md R160, R161, R164). -/

namespace Sys2Proof.Machine

/-! ### The model's own fields -/

theorem State.dropReply_with (s : State) (r : Option Request) (l : List Input) :
    ({ s with bigReq := r, inputs := l } : State).dropReply = { s.dropReply with bigReq := r, inputs := l } := by
  unfold State.dropReply
  cases s.replies <;> rfl

theorem State.send_withInputs (s : State) (l : List Input) :
    ({ s with inputs := l } : State).send = { s.send with inputs := l } := by
  obtain h | ⟨r, h⟩ := s.bigReq.eq_none_or_eq_some
  · rw [State.send_of_none h, State.send_of_none (s := { s with inputs := l }) h]
    rfl
  · simp only [State.send, h]

theorem State.collabTurn_withInputs (s : State) (l : List Input) :
    ({ s with inputs := l } : State).collabTurn = { s.collabTurn with inputs := l } := by
  obtain h | ⟨r, h⟩ := s.bigReq.eq_none_or_eq_some
  · rw [State.collabTurn_of_none h, State.collabTurn_of_none (s := { s with inputs := l }) h]
  · rw [State.collabTurn_of_some h, State.collabTurn_of_some (s := { s with inputs := l }) h, State.dropReply_with]
    rfl

/-! ### One round -/

/-- One request and its reply. -/
def State.round (s : State) : State := s.send.collabTurn

theorem State.round_withInputs (s : State) (l : List Input) :
    ({ s with inputs := l } : State).round = { s.round with inputs := l } := by
  simp only [State.round, State.send_withInputs, State.collabTurn_withInputs]

/-- A conversation is so many rounds, the last one last. -/
theorem State.converse_succ (n : Nat) (s : State) : State.converse (n + 1) s = (State.converse n s).round := by
  induction n generalizing s with
  | zero => rfl
  | succ n ih => exact ih s.round

/-- The request a round answers: the outstanding one, else the next one. -/
theorem State.send_bigReq (s : State) : s.send.bigReq = s.bigReq.or s.nextRequest := by
  unfold State.send
  split <;> simp [*]

theorem State.round_of_some {s : State} {r : Request} (h : s.send.bigReq = some r) :
    s.round =
      { s with
        bigReq := none
        rsaw := if s.replyAt 0 then s.rsaw.absorb (answer r) else .failed .collabFail
        replies := s.dropReply.replies
        draws := s.dropReply.draws } := by
  rw [State.round, State.collabTurn_of_some h, State.send_eq, State.dropReply_with]
  rfl

theorem State.round_of_none {s : State} (h : s.send.bigReq = none) : s.round = s := by
  have idle : s.bigReq = none := (Option.or_eq_none_iff.mp (s.send_bigReq ▸ h)).1
  rw [State.round, State.collabTurn_of_none h, State.send_eq, h, ← idle]

theorem State.round_bigReq (s : State) : s.round.bigReq = none := by
  cases h : s.send.bigReq with
  | none => rw [State.round, State.collabTurn_of_none h, h]
  | some r => rw [State.round_of_some h]

/-! ### How many requests are left -/

theorem requestsLeft_le (p : RsawPhase) : Spec.requestsLeft p ≤ 6 := by
  cases p <;> simp [Spec.requestsLeft]

theorem State.nextRequest_eq_none_iff (s : State) : s.nextRequest = none ↔ Spec.requestsLeft s.rsaw = 0 := by
  unfold State.nextRequest
  cases s.rsaw <;> simp [Spec.requestsLeft]

theorem requestsLeft_absorb_le (p : RsawPhase) (a : Answer) :
    Spec.requestsLeft (p.absorb a) ≤ Spec.requestsLeft p - 1 := by
  unfold RsawPhase.absorb
  split <;> simp [Spec.requestsLeft]

theorem State.requestsLeft_round_le (s : State) :
    Spec.requestsLeft s.round.rsaw ≤ Spec.requestsLeft s.rsaw - 1 := by
  cases h : s.send.bigReq with
  | none =>
    have noNext : s.nextRequest = none := (Option.or_eq_none_iff.mp (s.send_bigReq ▸ h)).2
    rw [State.round_of_none h, s.nextRequest_eq_none_iff.mp noNext]
  | some r =>
    rw [State.round_of_some h]
    dsimp only
    split
    · exact requestsLeft_absorb_le _ _
    · exact Nat.zero_le _

theorem State.requestsLeft_converse_le (n : Nat) (s : State) :
    Spec.requestsLeft (State.converse n s).rsaw ≤ Spec.requestsLeft s.rsaw - n := by
  induction n with
  | zero => exact le_rfl
  | succ n ih =>
    have := (State.converse n s).requestsLeft_round_le
    rw [State.converse_succ]
    omega

/-- Six rounds are enough (R160). -/
theorem State.requestsLeft_converse_six (s : State) : Spec.requestsLeft (State.converse 6 s).rsaw = 0 := by
  have := s.requestsLeft_converse_le 6
  have := requestsLeft_le s.rsaw
  omega

/-- After six rounds a further one changes nothing. -/
theorem State.round_converse_six (s : State) : (State.converse 6 s).round = State.converse 6 s := by
  refine State.round_of_none ?_
  rw [State.send_bigReq, (State.nextRequest_eq_none_iff _).mpr s.requestsLeft_converse_six, State.converse_succ,
    State.round_bigReq]
  rfl

/-! ### RSAW request by request -/

/-- RSAW ends the same with one of its requests already answered. -/
theorem exec_rsaw_round (s : State) : exec .rsaw s.round = exec .rsaw s := by
  have more : State.converse 6 s.round = State.converse 6 s :=
    (State.converse_succ 6 s).trans s.round_converse_six
  exact congrArg (fun u : State => Host.Outcome.next u.rsawComplete) more

theorem State.rsawInFlight_congr {s t : State} (h : t.pending = s.pending) : t.rsawInFlight = s.rsawInFlight := by
  simp only [State.rsawInFlight, h]

theorem engineTurn_of_rsawInFlight {s : State} (h : s.rsawInFlight = true) : engineTurn s = exec .rsaw s := by
  unfold State.rsawInFlight at h
  unfold engineTurn
  split at h
  · rename_i v pending
    split at h
    · rename_i decoded
      simp only [pending, decoded]
    · simp at h
  · simp at h

theorem run_succ_of_step {s t : State} (n : Nat) (h : step s = .next t) :
    Host.Core.run core (n + 1) s = Host.Core.run core n t := by
  simp only [Host.Core.run, show core.step s = .next t from h]

/-- A turn of the port and one of the collaborator are a round. -/
theorem run_port_collab {s : State} {rest : List Input} (n : Nat) (inFlight : s.rsawInFlight = true)
    (inputs : s.inputs = .port :: .collab :: rest) :
    Host.Core.run core (n + 2) s = Host.Core.run core n { s.round with inputs := rest } := by
  have port : step s = .next { s.send with inputs := .collab :: rest } := by
    have turn : inputTurn .port { s with inputs := .collab :: rest } = .next { s.send with inputs := .collab :: rest } := by
      rw [← State.send_withInputs]
      exact congrArg _ (if_pos inFlight)
    rw [step_eq, Spec.turn, inputs]
    exact turn
  have collab : step { s.send with inputs := .collab :: rest } = .next { s.round with inputs := rest } :=
    congrArg _ (s.send.collabTurn_withInputs rest)
  rw [run_succ_of_step _ port, run_succ_of_step _ collab]

/-- Settles O50: each pair of turns is a round, and RSAW ends the same after a round (`exec_rsaw_round`). -/
theorem rsawByRequestsIsRsaw : Obligations.RsawByRequestsIsRsaw := by
  unfold Obligations.RsawByRequestsIsRsaw
  intro s n rest inFlight inputs
  induction n generalizing s with
  | zero =>
    have engine : step s = exec .rsaw { s with inputs := rest } := by
      rw [step_eq, Spec.turn, inputs]
      exact engineTurn_of_rsawInFlight inFlight
    rw [run_succ_of_step 0 engine]
    rfl
  | succ n ih =>
    have pending : s.round.pending = s.pending := by rw [State.round, State.collabTurn_pending, State.send_eq]
    have byRounds : exec .rsaw { s.round with inputs := rest } = exec .rsaw { s with inputs := rest } := by
      rw [← State.round_withInputs, exec_rsaw_round]
    have later := ih { s.round with inputs := Spec.portSchedule n ++ .engine :: rest }
      ((State.rsawInFlight_congr pending).trans inFlight) rfl
    exact (run_port_collab _ inFlight inputs).trans (later.trans byRounds)

end Sys2Proof.Machine
end

section
/-! How an RSAW ends, from any progress that is exact (43_rsa.md R164; 60_exceptions.md R205). -/

namespace Sys2Proof.Machine

/-- An RSAW's progress is what R164 makes it: exact working values, and no request outstanding but the next one. -/
structure State.OnTrack (s : State) : Prop where
  phaseExact : s.PhaseExact
  request : s.bigReq = none ∨ s.bigReq = s.nextRequest

theorem State.Inv.onTrack {s : State} (h : s.Inv) : s.OnTrack where
  phaseExact := h.phaseExact
  request := by
    cases hr : s.bigReq with
    | none => exact .inl rfl
    | some r => exact .inr (hr ▸ h.requestIsNext (by simp [hr]))

theorem State.onTrack_of_fresh {s : State} (rsaw : s.rsaw = .idle) (bigReq : s.bigReq = none) : s.OnTrack :=
  ⟨State.phaseExact_of_idle rsaw, .inl bigReq⟩

theorem State.OnTrack.send_bigReq {s : State} (h : s.OnTrack) : s.send.bigReq = s.nextRequest := by
  rw [State.send_bigReq]
  obtain none | next := h.request
  · simp [none]
  · simp [next]

/-! ### What an exact reply does -/

/-- An exact `ok` reply brings RSAW one request on, or ends it at the comparison, the request that leaves two (R164). -/
theorem State.PhaseExact.absorb_cases {s : State} {r : Request} (h : s.PhaseExact) (next : s.nextRequest = some r) :
    (Spec.requestsLeft (s.rsaw.absorb (answer r)) + 1 = Spec.requestsLeft s.rsaw ∧
        s.rsaw.absorb (answer r) ≠ .failed .collabFail) ∨
      (s.rsaw.absorb (answer r) = .failed .outOfRange ∧ Spec.requestsLeft s.rsaw = 3 ∧ s.bufInt .n ≤ s.bufInt .m) := by
  unfold State.nextRequest at next
  unfold State.PhaseExact at h
  cases hp : s.rsaw <;> simp only [hp, Option.some.injEq, reduceCtorEq] at next h <;> subst next
  case gotMKN m k n =>
    obtain ⟨rfl, -, rfl⟩ := h
    simp only [answer]
    cases order : compare (s.bufInt .m) (s.bufInt .n) with
    | lt => exact .inl ⟨rfl, nofun⟩
    | eq => exact .inr ⟨rfl, rfl, (compare_eq_iff_eq.mp order).ge⟩
    | gt => exact .inr ⟨rfl, rfl, (compare_gt_iff_gt.mp order).le⟩
  all_goals exact .inl ⟨rfl, nofun⟩

/-- The last two requests are sent only where M < N (R164). -/
theorem State.PhaseExact.lt_of_last_requests {s : State} (h : s.PhaseExact) (pos : 0 < Spec.requestsLeft s.rsaw)
    (last : Spec.requestsLeft s.rsaw ≤ 2) : s.bufInt .m < s.bufInt .n := by
  unfold State.PhaseExact at h
  cases phase : s.rsaw with
  | inRange m k n =>
    rw [phase] at h
    obtain ⟨rfl, -, rfl, lt⟩ := h
    exact lt
  | gotR r =>
    rw [phase] at h
    exact h.1
  | _ => simp [phase, Spec.requestsLeft] at pos last

/-! ### What a round does to an RSAW on its track -/

section roundFields
variable {s : State} {r : Request}

theorem State.round_rsaw_of_ok (request : s.send.bigReq = some r) (ok : s.replyAt 0 = true) :
    s.round.rsaw = s.rsaw.absorb (answer r) := by
  rw [State.round_of_some request]
  exact if_pos ok

theorem State.round_rsaw_of_fail (request : s.send.bigReq = some r) (fail : s.replyAt 0 = false) :
    s.round.rsaw = .failed .collabFail := by
  rw [State.round_of_some request]
  exact if_neg (by simp [fail])

/-- A round uses up one draw. -/
theorem State.replyAt_round (request : s.send.bigReq = some r) (i : Nat) : s.round.replyAt i = s.replyAt (i + 1) := by
  rw [State.round_of_some request, ← State.replyAt_dropReply]
  rfl

theorem State.bufInt_converse (n : Nat) (s : State) (b : Buf) : (State.converse n s).bufInt b = s.bufInt b := by
  rw [State.converse_eq]
  rfl

theorem State.rsawValue_converse (n : Nat) (s : State) : (State.converse n s).rsawValue = s.rsawValue := by
  rw [State.converse_eq]
  rfl

theorem State.bufInt_round (s : State) (b : Buf) : s.round.bufInt b = s.bufInt b := s.bufInt_converse 1 b

end roundFields

theorem State.OnTrack.round {s : State} (h : s.OnTrack) : s.round.OnTrack := by
  cases next : s.nextRequest with
  | none => rwa [State.round_of_none (h.send_bigReq.trans next)]
  | some r =>
    refine ⟨?_, .inl s.round_bigReq⟩
    have phase : State.PhaseExact
        { s with rsaw := if s.replyAt 0 then s.rsaw.absorb (answer r) else .failed .collabFail } := by
      split
      · exact h.phaseExact.absorb next
      · exact .inl rfl
    rw [State.round_of_some (h.send_bigReq.trans next)]
    exact phase

/-- An RSAW with requests left has not failed yet. -/
theorem replyFails_iff_of_left {s : State} (left : Spec.requestsLeft s.rsaw ≠ 0) :
    Spec.ReplyFails s ↔ ∃ i < Spec.requestsLeft s.rsaw, s.replyAt i = false ∧
      (i + 2 < Spec.requestsLeft s.rsaw ∨ s.bufInt .m < s.bufInt .n) :=
  or_iff_right fun failed => left (by rw [failed]; rfl)

theorem replyFails_iff_of_zero {s : State} (zero : Spec.requestsLeft s.rsaw = 0) :
    Spec.ReplyFails s ↔ s.rsaw = .failed .collabFail :=
  or_iff_left fun ⟨i, hi, _⟩ => by omega

/-- Whether a reply fails can be asked again after a round: of the reply given, or of the ones still to come. -/
theorem State.OnTrack.replyFails_round {s : State} (h : s.OnTrack) : Spec.ReplyFails s.round ↔ Spec.ReplyFails s := by
  cases next : s.nextRequest with
  | none => rw [State.round_of_none (h.send_bigReq.trans next)]
  | some r =>
    have request := h.send_bigReq.trans next
    have left : Spec.requestsLeft s.rsaw ≠ 0 := fun zero => by simp [s.nextRequest_eq_none_iff.mpr zero] at next
    rw [replyFails_iff_of_left left]
    cases reply : s.replyAt 0 with
    | false =>
      refine iff_of_true (.inl (State.round_rsaw_of_fail request reply)) ⟨0, by omega, reply, ?_⟩
      by_cases early : 2 < Spec.requestsLeft s.rsaw
      · exact .inl (by omega)
      · exact .inr (h.phaseExact.lt_of_last_requests (by omega) (by omega))
    | true =>
      have absorbed := State.round_rsaw_of_ok request reply
      obtain ⟨one, notFailed⟩ | ⟨outOfRange, three, ge⟩ := h.phaseExact.absorb_cases next
      · rw [← absorbed] at one notFailed
        simp only [Spec.ReplyFails, notFailed, false_or, State.replyAt_round request, State.bufInt_round, ← one]
        constructor
        · rintro ⟨i, hi, fail, sent⟩
          exact ⟨i + 1, by omega, fail, sent.imp_left (by omega)⟩
        · rintro ⟨_ | i, hi, fail, sent⟩
          · simp [reply] at fail
          · exact ⟨i, by omega, fail, sent.imp_left (by omega)⟩
      · rw [replyFails_iff_of_zero (by rw [absorbed, outOfRange]; rfl), absorbed, outOfRange]
        refine iff_of_false nofun ?_
        rintro ⟨_ | i, hi, fail, sent⟩
        · simp [reply] at fail
        · omega

theorem State.OnTrack.converse {s : State} (h : s.OnTrack) (n : Nat) :
    (State.converse n s).OnTrack ∧ (Spec.ReplyFails (State.converse n s) ↔ Spec.ReplyFails s) := by
  induction n with
  | zero => exact ⟨h, Iff.rfl⟩
  | succ n ih =>
    obtain ⟨track, fails⟩ := ih
    rw [State.converse_succ]
    exact ⟨track.round, track.replyFails_round.trans fails⟩

/-! ### The three ends of an RSAW -/

/-- RSAW run from `s` ends with these buffer bytes and this code, every register unchanged. Which draws it has used is not
said (log 4). -/
def State.RsawEnds (s : State) (mem' : Memory) (code : BitVec 8) : Prop :=
  ∃ replies' draws', exec .rsaw s = .next { s.completedWith s.x mem' code with replies := replies', draws := draws' }

theorem State.rsawEnds_of_failed {s : State} {c : ErrCode} (h : (State.converse 6 s).rsaw = .failed c) :
    s.RsawEnds s.mem c.code := by
  have ends : (State.converse 6 s).rsawComplete = (State.converse 6 s).finish c := by
    rw [State.rsawComplete, h]
    rfl
  have frame := congrArg (State.finish · c) (State.converse_eq 6 s)
  exact ⟨_, _, congrArg Host.Outcome.next (ends.trans frame)⟩

theorem State.rsawEnds_of_ready {s : State} {bytes : List Byte} (h : (State.converse 6 s).rsaw = .ready bytes) :
    s.RsawEnds (s.setBuf .m bytes).mem 0 := by
  have ends : (State.converse 6 s).rsawComplete = ((State.converse 6 s).setBuf .m bytes).finish .none := by
    rw [State.rsawComplete, h]
    rfl
  have frame := congrArg (fun u => (State.setBuf u .m bytes).finish .none) (State.converse_eq 6 s)
  exact ⟨_, _, congrArg Host.Outcome.next (ends.trans frame)⟩

/-- How RSAW ends (R164, R205): by a reply that fails, else by the comparison, else with the result. -/
theorem State.OnTrack.rsaw_ends {s : State} (h : s.OnTrack) :
    (Spec.ReplyFails s ∧ s.RsawEnds s.mem 11) ∨
      (¬ Spec.ReplyFails s ∧ s.bufInt .n ≤ s.bufInt .m ∧ s.RsawEnds s.mem 3) ∨
      (¬ Spec.ReplyFails s ∧ s.bufInt .m < s.bufInt .n ∧
        s.RsawEnds (s.setBuf .m (exportInt s.rsawValue s.cfg.width)).mem 0) := by
  obtain ⟨track, fails⟩ := h.converse 6
  have zero := s.requestsLeft_converse_six
  have working := track.phaseExact
  rw [replyFails_iff_of_zero zero] at fails
  rw [← fails]
  unfold State.PhaseExact at working
  cases phase : (State.converse 6 s).rsaw <;> simp only [phase] at working zero
  case ready bytes =>
    obtain ⟨lt, rfl⟩ := working
    have width : (State.converse 6 s).cfg = s.cfg := by rw [State.converse_eq]
    rw [State.bufInt_converse, State.bufInt_converse] at lt
    rw [State.rsawValue_converse, width] at phase
    exact .inr (.inr ⟨nofun, lt, State.rsawEnds_of_ready phase⟩)
  case failed c =>
    obtain rfl | ⟨rfl, le⟩ := working
    · exact .inl ⟨rfl, State.rsawEnds_of_failed phase⟩
    · rw [State.bufInt_converse, State.bufInt_converse] at le
      exact .inr (.inl ⟨nofun, le, State.rsawEnds_of_failed phase⟩)
  all_goals simp [Spec.requestsLeft] at zero

/-! ### The bytes RSAW stores -/

/-- MBUF after a successful RSAW (R164). -/
theorem State.read_setBuf_rsawValue {s : State} (wf : Memory.wf s.mem = true) {j : Nat} (hj : j < s.cfg.width) :
    Memory.read (s.setBuf .m (exportInt s.rsawValue s.cfg.width)).mem (Buf.base .m + j) =
      BitVec.ofNat 8 (s.rsawValue / 256 ^ (s.cfg.width - 1 - j)) := by
  rw [State.read_setBuf_exportInt .m _ wf hj]
  exact BitVec.eq_of_toNat_eq (by simp)

theorem State.read_setBuf_outside (s : State) (b : Buf) (bytes : List Byte) {off : Nat}
    (outside : off < b.base ∨ b.base + s.cfg.width ≤ off) :
    Memory.read (s.setBuf b bytes).mem off = Memory.read s.mem off := by
  have := List.length_take_le s.cfg.width bytes
  exact Memory.read_writeList_outside _ _ _ _ (by omega)

/-- Settles O48: with six ok replies no reply fails, and M < N leaves the third end. -/
theorem rsawResult : Obligations.RsawResult := by
  unfold Obligations.RsawResult
  intro s rsaw bigReq wf ok lt
  have noFail : ¬ Spec.ReplyFails s := by
    rw [replyFails_iff_of_left (by simp [rsaw, Spec.requestsLeft])]
    rintro ⟨i, hi, fail, -⟩
    rw [rsaw] at hi
    simp [ok i hi] at fail
  obtain ⟨fails, -⟩ | ⟨-, ge, -⟩ | ⟨-, -, ends⟩ := (State.onTrack_of_fresh rsaw bigReq).rsaw_ends
  · exact absurd fails noFail
  · omega
  · obtain ⟨replies', draws', ends⟩ := ends
    exact ⟨_, replies', draws', ends, fun j => State.read_setBuf_rsawValue wf, fun off => s.read_setBuf_outside .m _⟩

/-- Settles O49: the two error ends; the fifth and the sixth reply count only where M < N. -/
theorem rsawErrors : Obligations.RsawErrors := by
  unfold Obligations.RsawErrors
  intro s rsaw bigReq
  have left : Spec.requestsLeft s.rsaw = 6 := by rw [rsaw]; rfl
  have fails_iff := replyFails_iff_of_left (s := s) (by simp [left])
  rw [left] at fails_iff
  obtain ⟨fails, ends⟩ | ⟨noFail, ge, ends⟩ | ⟨noFail, lt, ends⟩ := (State.onTrack_of_fresh rsaw bigReq).rsaw_ends
  · refine ⟨fun ok ge => ?_, fun _ _ _ _ _ => ends⟩
    obtain ⟨i, hi, fail, sent⟩ := fails_iff.mp fails
    simp [ok i (by omega)] at fail
  · refine ⟨fun _ _ => ends, fun i hi _ fail sent => ?_⟩
    exact absurd (fails_iff.mpr ⟨i, hi, fail, sent.imp_left (by omega)⟩) noFail
  · refine ⟨fun _ ge => by omega, fun i hi _ fail sent => ?_⟩
    exact absurd (fails_iff.mpr ⟨i, hi, fail, .inr lt⟩) noFail

/-- Settles O51: a reachable RSAW is on its track, and has the three ends of `State.OnTrack.rsaw_ends`. -/
theorem rsawCompletesRightFromAnyProgress : Obligations.RsawCompletesRightFromAnyProgress := by
  unfold Obligations.RsawCompletesRightFromAnyProgress
  intro s t inv inFlight turn
  rw [engineTurn_of_rsawInFlight inFlight] at turn
  have ended {mem' : Memory} {code : BitVec 8} (ends : s.RsawEnds mem' code) : t.err = code ∧ t.mem = mem' := by
    obtain ⟨_, _, ends⟩ := ends
    rw [Host.Outcome.next.inj (turn.symm.trans ends)]
    exact ⟨rfl, rfl⟩
  obtain ⟨fails, ends⟩ | ⟨noFail, ge, ends⟩ | ⟨noFail, lt, ends⟩ := inv.onTrack.rsaw_ends
  · obtain ⟨err, mem⟩ := ended ends
    exact .inr (.inr ⟨err, fails, mem⟩)
  · obtain ⟨err, mem⟩ := ended ends
    exact .inr (.inl ⟨err, noFail, ge, mem⟩)
  · obtain ⟨err, mem⟩ := ended ends
    have region := inv.cfgLegal.width_le
    have otherBuf {b : Buf} (j : Nat) (above : Buf.base .m + 0x10000 ≤ b.base) : t.bufByte b j = s.bufByte b j := by
      rw [State.bufByte, mem, State.read_setBuf_outside _ _ _ (.inr (by omega))]
      rfl
    refine .inl ⟨err, noFail, lt, fun j hj => ?_, fun j _ => ⟨otherBuf j (by decide), otherBuf j (by decide)⟩⟩
    rw [State.bufByte, mem]
    exact State.read_setBuf_rsawValue inv.memWf hj

end Sys2Proof.Machine
end

section
/-! The life cycle of a command: acceptance, the engine's turn, completion (44_system.md R180 to R182), and ZEROIZE (R184). -/

namespace Sys2Proof.Machine

/-! ### Acceptance (R180) -/

/-- A CMD write while BUSY = 1 is discarded (R57). -/
theorem State.busWrite_cmd_of_busy {s : State} (busy : s.busy = true) (v : Word) :
    s.busWrite 0x020 8 v = { s with busyerr := true, resp := .writeOkay } :=
  State.busWrite_of_busy busy (slotOf_page (by decide) (by decide)) (.inl rfl)

/-- Settles O6: of the effects a host access can have, those open to it while BUSY = 1 leave the command in flight alone. -/
theorem commandAcceptance : Obligations.CommandAcceptance := by
  unfold Obligations.CommandAcceptance
  refine ⟨fun s v idle => ?_, fun s v busy => State.busWrite_cmd_of_busy busy v, fun s t a busy access => ?_⟩
  · rw [State.busWrite_cmd_of_idle idle, State.accept]
  · obtain ⟨_, _, rfl⟩ | ⟨_, -, rfl⟩ | ⟨_, -, rfl⟩ | ⟨-, _, _, _, _, -, -, -, -, rfl⟩ | ⟨idle, -⟩ | ⟨idle, -⟩ |
      ⟨idle, -⟩ := hostAccess_effect access
    case inl | inr.inl | inr.inr.inl | inr.inr.inr.inl => exact ⟨busy, rfl, rfl, rfl, rfl⟩
    all_goals simp [busy] at idle

/-! ### The engine's turn (R181) -/

theorem step_of_inputs_nil {s : State} (inputs : s.inputs = []) : step s = engineTurn s := by
  simp only [step, stepOnce, inputs]

theorem step_of_inputs_cons {s : State} {i : Input} {rest : List Input} (inputs : s.inputs = i :: rest) :
    step s = inputTurn i { s with inputs := rest } := by
  simp only [step, stepOnce, inputs]

theorem engineTurn_of_decoded {s : State} {v : Word} {i : Instr} (pending : s.pending = some v)
    (decoded : decode v = .ok i) : engineTurn s = exec i s := by
  simp only [engineTurn, pending, decoded]

theorem step_of_decoded {s : State} {v : Word} {i : Instr} {rest : List Input} (pending : s.pending = some v)
    (decoded : decode v = .ok i) (inputs : s.inputs = .engine :: rest) : step s = exec i { s with inputs := rest } :=
  (step_of_inputs_cons inputs).trans (engineTurn_of_decoded pending decoded)

theorem decodeTableWord_eq_some_iff {nbits w : Nat} {i : Instr} :
    decodeTableWord nbits w = some i ↔ decode (BitVec.ofNat 64 (w % 2 ^ nbits)) = .ok i := by
  unfold decodeTableWord
  split <;> simp_all

/-- Settles O7: the engine's turn runs what the value in flight decodes to; `withFetchWord` puts that turn first. -/
theorem stepRunsDecodedInstruction : Obligations.StepRunsDecodedInstruction := by
  unfold Obligations.StepRunsDecodedInstruction
  refine ⟨fun s v i pending decoded => ⟨fun inputs => ?_, fun rest inputs => step_of_decoded pending decoded inputs⟩,
    fun s nbits w i decoded => ?_⟩
  · rw [step_of_inputs_nil inputs, engineTurn_of_decoded pending decoded]
  · exact ⟨_, step_of_decoded (s := s.withFetchWord nbits w) rfl (decodeTableWord_eq_some_iff.mp decoded) rfl,
      rfl, rfl, rfl, rfl, rfl⟩

/-! ### Completion (R181, R182) -/

/-- No command faults or is refused. -/
theorem exists_exec_eq_next (i : Instr) (s : State) : ∃ t, exec i s = .next t := by
  cases i with
  | madd | maddNw | mmul | mmulNw | mpow | mpowNw | gcd | mrtest | rsaw | zeroize => exact ⟨_, rfl⟩
  | xgcd rd ra rb =>
    simp only [exec, execXgcd]
    split <;> exact ⟨_, rfl⟩
  | minv rd ra rm =>
    simp only [exec, execMinv]
    split <;> exact ⟨_, rfl⟩
  | mrfact rd rn =>
    simp only [exec, execMrfact]
    split
    · split <;> exact ⟨_, rfl⟩
    · exact ⟨_, rfl⟩
  | mrwit rd rn ra rk rq =>
    simp only [exec, execMrwit]
    split <;> exact ⟨_, rfl⟩
  | rsa64 rd rm rk rn =>
    simp only [exec, execRsa64]
    split <;> exact ⟨_, rfl⟩

/-- Settles O9: every command answers a next state (`exists_exec_eq_next`), and that state is a completion. -/
theorem everyCommandCompletes : Obligations.EveryCommandCompletes := by
  unfold Obligations.EveryCommandCompletes
  intro i s
  obtain ⟨t, run⟩ := exists_exec_eq_next i s
  obtain ⟨_, _, ht, -⟩ := (exec_next run).completed
  refine ⟨t, run, ?_⟩
  rw [ht]
  exact ⟨rfl, rfl, rfl, rfl, rfl⟩

/-- Settles O10: beside the completion update only registers and bytes could differ, and an error writes none. -/
theorem errorLeavesNoPartialOutput : Obligations.ErrorLeavesNoPartialOutput := by
  unfold Obligations.ErrorLeavesNoPartialOutput
  intro i s t run error
  have ends := exec_next run
  obtain ⟨q, d, ht, -⟩ := ends.completed
  obtain ⟨hx, hmem⟩ := ends.errorFrame error
  rw [hx, hmem] at ht
  have hq : t.replies = q := congrArg State.replies ht
  have hd : t.draws = d := congrArg State.draws ht
  rwa [hq, hd]

/-! ### ZEROIZE (R184) -/

theorem exec_zeroize (s : State) :
    exec .zeroize s = .next (s.completedWith (Vector.replicate 16 0) s.zeroed.mem 0) := rfl

/-- ZEROIZE makes the buffer bytes 0 and keeps every other one. -/
theorem State.read_zeroed (s : State) (off : Nat) :
    Memory.read s.zeroed.mem off = if bufferOffset s.cfg off = true then 0 else Memory.read s.mem off := by
  have dropped := Memory.read_filter s.mem (fun a => !bufferOffset s.cfg a) off
  cases h : bufferOffset s.cfg off <;> simpa [h] using dropped

/-- Where only buffer bytes are listed, ZEROIZE leaves none listed. -/
theorem State.zeroed_mem_eq_nil {s : State} (inBuffers : ∀ c ∈ s.mem, bufferOffset s.cfg c.1 = true) :
    s.zeroed.mem = [] :=
  List.filter_eq_nil_iff.mpr fun c hc => by simp [inBuffers c hc]

/-- Settles O52: the memory ZEROIZE leaves is that of `State.read_zeroed`, and every byte j < W is a buffer byte. -/
theorem zeroizeResult : Obligations.ZeroizeResult := by
  unfold Obligations.ZeroizeResult
  intro s legal
  refine ⟨s.zeroed.mem, exec_zeroize s, fun b j hj => ?_, fun off other => ?_⟩
  · have inBuffer := bufferOffset_base_add b hj (hj.trans_le legal.width_le)
    rw [s.read_zeroed, if_pos inBuffer]
  · rw [s.read_zeroed, if_neg (by simp [other])]

/-- Settles O53: the registers are overwritten, and either memory becomes the empty one. -/
theorem zeroizeErasesOperands : Obligations.ZeroizeErasesOperands := by
  unfold Obligations.ZeroizeErasesOperands
  intro s x' mem' inBuffers inBuffers'
  rw [exec_zeroize, exec_zeroize, State.zeroed_mem_eq_nil inBuffers,
    State.zeroed_mem_eq_nil (s := { s with x := x', mem := mem' }) inBuffers']
  rfl

end Sys2Proof.Machine
end

section
/-! The interrupt (60_exceptions.md R206, R207): IRQ is DONE and IE, so it moves where one of the two moves. And the idle
MAE (R216). -/

namespace Sys2Proof.Machine

/-! ### An idle MAE (R216) -/

theorem engineTurn_of_idle {s : State} (idle : s.pending = none) : engineTurn s = .next s := by
  simp only [engineTurn, idle]

/-- Settles O8: where nothing waits the engine moves, and with no command in flight it changes nothing. -/
theorem idleKeepsState : Obligations.IdleKeepsState := by
  unfold Obligations.IdleKeepsState
  intro s idle inputs
  rw [step_of_inputs_nil inputs, engineTurn_of_idle idle]

/-! ### The interrupt (R206, R207) -/

theorem State.irq_eq_true_iff (s : State) : s.irq = true ↔ s.done = true ∧ s.ie = true := Bool.and_eq_true_iff

theorem State.irq_eq_false_iff (s : State) : s.irq = false ↔ s.done = false ∨ s.ie = false := Bool.and_eq_false_iff

/-- Without DONE there is no interrupt, whatever IE. -/
theorem State.irq_of_not_done {s : State} (clear : s.done = false) : s.irq = false := s.irq_eq_false_iff.mpr (.inl clear)

/-- With DONE set the interrupt is IE. -/
theorem State.irq_of_done {s : State} (set : s.done = true) : s.irq = s.ie := by rw [State.irq, set, Bool.true_and]

/-- The engine's turn with a command in flight sets DONE, legal or not, successful or not (R181). -/
theorem engineTurn_done {s t : State} (inFlight : s.pending.isSome = true) (turn : engineTurn s = .next t) :
    t.done = true := by
  obtain ⟨idle, -⟩ | ⟨_, -, ⟨_, -, rfl⟩ | ⟨_, -, run⟩⟩ := engineTurn_next turn
  · simp [idle] at inFlight
  · rfl
  · exact (exec_next run).done

/-- Only a CTRL write and reset change IE (R29). -/
theorem ie_changes {s t : State} (h : step s = .next t) (changed : t.ie ≠ s.ie) :
    (Spec.turn s = .reset ∧ t.ie = false) ∨
      ∃ v, Spec.turn s = .host (.write (s.cfg.base + 0x010) 8 v) ∧ t.ie = v.getLsbD 0 := by
  cases step_effect h with
  | writeCtrl v turn ht => exact .inr ⟨v, turn, by rw [ht]; rfl⟩
  | reset turn ht => exact .inl ⟨turn, by rw [ht]; rfl⟩
  | command _ _ _ _ _ completes => exact absurd completes.ie changed
  | _ => simp_all

/-- R207: IRQ rises where DONE does, at a completion, or where IE does with DONE set, by a CTRL write. -/
theorem irq_rises {s t : State} (h : step s = .next t) (low : s.irq = false) (high : t.irq = true) :
    (Spec.turn s = .engine ∧ s.pending.isSome = true) ∨
      (s.done = true ∧ ∃ v, Spec.turn s = .host (.write (s.cfg.base + 0x010) 8 v) ∧ v.getLsbD 0 = true) := by
  obtain ⟨doneRises, -⟩ := doneRisesAndFalls s t h
  obtain ⟨doneAfter, ieAfter⟩ := t.irq_eq_true_iff.mp high
  cases doneBefore : s.done with
  | false => exact .inl ((doneRises doneBefore).mp doneAfter)
  | true =>
    have ieBefore : s.ie = false := (State.irq_of_done doneBefore).symm.trans low
    obtain ⟨-, cleared⟩ | ⟨v, turn, written⟩ := ie_changes h (by simp [ieBefore, ieAfter])
    · simp [ieAfter] at cleared
    · exact .inr ⟨rfl, v, turn, written.symm.trans ieAfter⟩

/-- R207: IRQ falls where DONE does, or where IE does, by a CTRL write or reset. -/
theorem irq_falls {s t : State} (h : step s = .next t) (high : s.irq = true) (low : t.irq = false) :
    Spec.turn s = .reset ∨
      (∃ v, Spec.turn s = .host (.write (s.cfg.base + 0x018) 8 v) ∧ v.getLsbD 1 = true) ∨
      (s.busy = false ∧ ∃ v, Spec.turn s = .host (.write (s.cfg.base + 0x020) 8 v)) ∨
      ∃ v, Spec.turn s = .host (.write (s.cfg.base + 0x010) 8 v) ∧ v.getLsbD 0 = false := by
  obtain ⟨-, doneFalls⟩ := doneRisesAndFalls s t h
  obtain ⟨doneBefore, ieBefore⟩ := s.irq_eq_true_iff.mp high
  obtain doneAfter | ieAfter := t.irq_eq_false_iff.mp low
  · exact ((doneFalls doneBefore).mp doneAfter).imp_right (.imp_right .inl)
  · obtain ⟨turn, -⟩ | ⟨v, turn, written⟩ := ie_changes h (by simp [ieBefore, ieAfter])
    · exact .inl turn
    · exact .inr (.inr (.inr ⟨v, turn, written.symm.trans ieAfter⟩))

/-- Settles O25: each clause says what DONE and IE become, and the step clauses are `irq_rises` and `irq_falls`. -/
theorem interruptLevel : Obligations.InterruptLevel := by
  unfold Obligations.InterruptLevel
  obtain ⟨-, ctrlWrite, engineKeepsIe, -⟩ := ctrlRegister
  obtain ⟨-, statusWrite, -⟩ := statusRegister
  refine ⟨fun s => rfl, fun s t inFlight turn => ?_, fun s v clears => ?_, fun s v idle => ?_, fun s => rfl,
    fun s v set => ?_, fun s t h => ?_⟩
  · rw [State.irq_of_done (engineTurn_done inFlight turn), engineKeepsIe s t turn]
  · rw [statusWrite]
    exact State.irq_of_not_done (if_pos clears)
  · rw [State.busWrite_cmd_of_idle idle]
    exact State.irq_of_not_done rfl
  · rw [ctrlWrite]
    exact ⟨State.irq_of_done set, set⟩
  · obtain ⟨doneRises, -⟩ := doneRisesAndFalls s t h
    exact ⟨fun clear => (doneRises clear).mp, irq_rises h, irq_falls h⟩

end Sys2Proof.Machine
end

section
/-! Reset from any state (70_reset_and_hazards.md R230, R231), and how a run of the host's accesses ends (R240, R242). -/

namespace Sys2Proof.Machine

/-! ### Reset (R230, R231) -/

/-- Settles O54: the step is `State.resetInput`, which leaves no request, so a late reply finds none. -/
theorem resetFromAnyState : Obligations.ResetFromAnyState := by
  unfold Obligations.ResetFromAnyState
  intro s rest inputs
  obtain ⟨-, -, statusZero⟩ := statusRegister
  refine ⟨State.resetInput { s with inputs := rest }, step_of_inputs_cons inputs, fun r => ?_, fun off => rfl,
    statusZero s.cfg, rfl, rfl, rfl, rfl, rfl, rfl, rfl, rfl, State.collabTurn_of_none rfl⟩
  simp [State.reg]

/-! ### Every step answers (R240) -/

/-- Every host access that waits lies in the window, where the MAE decodes it (R50). -/
def State.AccessesInWindow (s : State) : Prop := ∀ a, Input.host a ∈ s.inputs → inWindow s.cfg a.addr = true

theorem exists_hostAccess_eq_next {a : Access} {s : State} (window : inWindow s.cfg a.addr = true) :
    ∃ t, hostAccess a s = .next t := by
  cases a with
  | read addr size => exact ⟨_, if_pos window⟩
  | write addr size v => exact ⟨_, if_pos window⟩

/-- The engine's turn answers a state with no command in flight: what was in flight, legal or not, is complete. -/
theorem exists_engineTurn_eq_next (s : State) : ∃ t, engineTurn s = .next t ∧ t.pending = none := by
  cases pending : s.pending with
  | none => exact ⟨s, engineTurn_of_idle pending, pending⟩
  | some v =>
    cases decoded : decode v with
    | error e => exact ⟨_, engineTurn_of_illegal pending decoded, rfl⟩
    | ok i =>
      obtain ⟨t, run, -, -, done, -⟩ := everyCommandCompletes i s
      exact ⟨t, (engineTurn_of_decoded pending decoded).trans run, done⟩

/-- Only an access outside the window stops the machine. -/
theorem exists_step_eq_next {s : State} (window : s.AccessesInWindow) : ∃ t, step s = .next t := by
  cases inputs : s.inputs with
  | nil =>
    obtain ⟨t, turn, -⟩ := exists_engineTurn_eq_next s
    exact ⟨t, (step_of_inputs_nil inputs).trans turn⟩
  | cons i rest =>
    rw [step_of_inputs_cons inputs]
    cases i with
    | host a => exact exists_hostAccess_eq_next (window a (by simp [inputs]))
    | engine =>
      obtain ⟨t, turn, -⟩ := exists_engineTurn_eq_next { s with inputs := rest }
      exact ⟨t, turn⟩
    | port | collab | reset => exact ⟨_, rfl⟩

/-- A step uses up one input and keeps the build. -/
theorem step_inputs_cfg {s t : State} (h : step s = .next t) : t.inputs = s.inputs.tail ∧ t.cfg = s.cfg := by
  cases step_effect h with
  | command v i _ _ _ completes =>
    obtain ⟨_, _, ht, -⟩ := completes.completed
    rw [ht]
    exact ⟨rfl, rfl⟩
  | port _ ht | collab _ ht => simp [ht]
  | _ => simp_all

theorem State.AccessesInWindow.after_step {s t : State} (window : s.AccessesInWindow) (h : step s = .next t) :
    t.AccessesInWindow := by
  obtain ⟨inputs, cfg⟩ := step_inputs_cfg h
  intro a ha
  rw [inputs] at ha
  rw [cfg]
  exact window a (List.mem_of_mem_tail ha)

/-! ### The end of a run (R242) -/

/-- Where the queue is empty and no command is in flight, a run has ended: BUSY is that a command is in flight (R38). -/
theorem State.Inv.runEnded {s : State} (inv : s.Inv) (inputs : s.inputs = []) (pending : s.pending = none) :
    s.RunEnded :=
  ⟨by simp [inputs], by simpa [pending] using inv.busyIffPending.symm⟩

/-- Settles O12, by induction on the waiting inputs: each step uses one up, and the last is the engine's turn. -/
theorem acceptedCommandsComplete : Obligations.AcceptedCommandsComplete := by
  unfold Obligations.AcceptedCommandsComplete
  intro s window
  change s.AccessesInWindow at window
  induction inputs : s.inputs generalizing s with
  | nil =>
    obtain ⟨t, turn, pending⟩ := exists_engineTurn_eq_next s
    have last : step s = .next t := (step_of_inputs_nil inputs).trans turn
    have empty : t.inputs = [] := by simp [step_inputs_cfg last, inputs]
    exact ⟨t, run_succ_of_step 0 last, empty, pending,
      fun inv => (stepKeepsInvariant s t inv last).runEnded empty pending⟩
  | cons i rest ih =>
    obtain ⟨u, first⟩ := exists_step_eq_next window
    obtain ⟨t, run, empty, pending, ended⟩ := ih u (window.after_step first) (by simp [step_inputs_cfg first, inputs])
    exact ⟨t, (run_succ_of_step _ first).trans run, empty, pending,
      fun inv => ended (stepKeepsInvariant s u inv first)⟩

/-- A run keeps the invariant. -/
theorem State.Inv.after_run {n : Nat} {s t : State} (inv : s.Inv) (h : Host.Core.run core n s = .next t) : t.Inv := by
  induction n generalizing s with
  | zero => exact Host.Outcome.next.inj h ▸ inv
  | succ n ih =>
    cases first : step s with
    | next u =>
      rw [run_succ_of_step n first] at h
      exact ih (stepKeepsInvariant s u inv first) h
    | fault r => simp [Host.Core.run, show core.step s = .fault r from first] at h
    | refused r => simp [Host.Core.run, show core.step s = .refused r from first] at h

/-- A run that has ended after `n` steps has a first point, at the latest there, at which it has ended. -/
theorem exists_runEndsAfter {n : Nat} {s t : State} (run : Host.Core.run core n s = .next t) (ended : t.RunEnded) :
    ∃ k ≤ n, ∃ u, s.RunEndsAfter k u := by
  classical
  have reached : ∃ k u, Host.Core.run core k s = .next u ∧ u.RunEnded := ⟨n, t, run, ended⟩
  obtain ⟨u, first, endedFirst⟩ := Nat.find_spec reached
  exact ⟨Nat.find reached, Nat.find_min' reached ⟨t, run, ended⟩, u.maeState, u, first, endedFirst, rfl,
    fun k before v earlier endedEarlier => Nat.find_min reached before ⟨v, earlier, endedEarlier⟩⟩

/-- The end state of a run from a state that meets the invariant has no command in flight. -/
theorem State.RunEndsAfter.idle {n : Nat} {s t : State} (h : s.RunEndsAfter n t) (inv : s.Inv) :
    t.busy = false ∧ t.pending = none := by
  obtain ⟨u, run, ⟨-, idle⟩, rfl, -⟩ := h
  exact ⟨idle, ((inv.after_run run).idle idle).1⟩

/-- After the end of a run the next input is no host step. -/
theorem State.RunEnded.turn_ne_host {s : State} (ended : s.RunEnded) (a : Access) : Spec.turn s ≠ .host a := by
  obtain ⟨noHost, -⟩ := ended
  unfold Spec.turn
  cases inputs : s.inputs with
  | nil => simp
  | cons i rest =>
    rintro rfl
    exact absurd (noHost (.host a) (by simp [inputs])) (by simp [Input.isHost])

/-- After the end of a run a step that is no reset uses up an input and does nothing else: the engine has no command, the
port no RSAW, the collaborator no request. -/
theorem step_of_runEnded {s : State} (inv : s.Inv) (ended : s.RunEnded) (noReset : Spec.turn s ≠ .reset) :
    step s = .next { s with inputs := s.inputs.tail } := by
  have ⟨_, idle⟩ := ended
  obtain ⟨pending, bigReq, -⟩ := inv.idle idle
  rw [step_eq]
  cases turn : Spec.turn s with
  | host a => exact absurd turn (ended.turn_ne_host a)
  | engine => exact engineTurn_of_idle pending
  | port =>
    have notRsaw : ¬ State.rsawInFlight { s with inputs := s.inputs.tail } = true := by
      simp [State.rsawInFlight, pending]
    exact congrArg _ (if_neg notRsaw)
  | collab => exact congrArg _ (State.collabTurn_of_none (s := { s with inputs := s.inputs.tail }) bigReq)
  | reset => exact absurd turn noReset

/-- Settles O57: the end comes by O12, its first point by `exists_runEndsAfter`, its stability by `step_of_runEnded`. -/
theorem hostRunEnds : Obligations.HostRunEnds := by
  unfold Obligations.HostRunEnds
  refine ⟨fun s inv window => ?_, fun s noHost idle => ?_, fun s t inv ended noReset h => ?_⟩
  · obtain ⟨t, run, -, -, ended⟩ := acceptedCommandsComplete s window
    obtain ⟨n, bound, u, ends⟩ := exists_runEndsAfter run (ended inv)
    exact ⟨n, bound, u, ends, ends.idle inv⟩
  · exact ⟨s, rfl, ⟨noHost, idle⟩, rfl, fun k before => absurd before k.not_lt_zero⟩
  · obtain rfl := Host.Outcome.next.inj ((step_of_runEnded inv ended noReset).symm.trans h)
    obtain ⟨noHost, idle⟩ := ended
    exact ⟨⟨fun i hi => noHost i (List.mem_of_mem_tail hi), idle⟩, rfl⟩

end Sys2Proof.Machine
end

section
/-! The datapaths R101 and R102 prescribe for the sum and the product (40_modarith.md), beside the functions the commands
take. -/

namespace Sys2Proof.Machine

/-! ### The modulus (R100) -/

theorem modulus_zero : Spec.modulus 0 = 2 ^ 64 := rfl

theorem modulus_of_ne_zero {m : Word} (h : m ≠ 0) : Spec.modulus m = m.toNat :=
  if_neg fun zero => h (BitVec.eq_of_toNat_eq zero)

theorem modulus_bounds (m : Word) : 0 < Spec.modulus m ∧ Spec.modulus m ≤ 2 ^ 64 := by
  have bound := m.isLt
  rw [Spec.modulus]
  split <;> omega

/-! ### The sum (R101) -/

/-- With no borrow the difference a - (m - b) of residues is a + b - m; with one, adding m back gives a + b. -/
theorem toNat_borrowChecked {a b m : Word} (ha : a.toNat < m.toNat) (hb : b.toNat < m.toNat) :
    (if a < m - b then (a - (m - b)) + m else a - (m - b)).toNat =
      if m.toNat ≤ a.toNat + b.toNat then a.toNat + b.toNat - m.toNat else a.toNat + b.toNat := by
  have complement : (m - b).toNat = m.toNat - b.toNat := BitVec.toNat_sub_of_le (BitVec.le_def.mpr hb.le)
  have borrow : a < m - b ↔ ¬ m.toNat ≤ a.toNat + b.toNat := by
    rw [BitVec.lt_def, complement]
    omega
  simp only [borrow, ite_not]
  split <;> bv_omega

/-- The datapath of R101 is modAdd. -/
theorem modAddDatapath_eq (a b m : Word) :
    (modAddDatapath a b m).toNat = modAdd a.toNat b.toNat (Spec.modulus m) := by
  rw [modAddDatapath, modAdd]
  split
  next zero => rw [zero, modulus_zero, BitVec.toNat_add]
  next nonzero =>
    obtain ⟨positive, -⟩ := modulus_bounds m
    rw [modulus_of_ne_zero nonzero] at positive ⊢
    rw [Nat.add_mod_eq_ite, ← BitVec.toNat_umod, ← BitVec.toNat_umod]
    refine toNat_borrowChecked ?_ ?_ <;> rw [BitVec.toNat_umod] <;> exact Nat.mod_lt _ positive

/-! ### The product (R102) -/

/-- The loop of R102 adds to what it has so far the product still to come, modulo M: each turn takes one bit of `e`. -/
theorem modMulLoop_eq (modulus fuel r x e : Nat) (hfuel : e < 2 ^ fuel) (hr : r % modulus = r) :
    modMulLoop modulus fuel r x e = (r + x * e) % modulus := by
  induction fuel generalizing r x e with
  | zero =>
    obtain rfl : e = 0 := by omega
    simp [modMulLoop, hr]
  | succ fuel ih =>
    by_cases zero : e = 0
    · simp [modMulLoop, zero, hr]
    · have bit : (if e % 2 = 1 then modAdd r x modulus else r) = (r + x * (e % 2)) % modulus := by
        rcases Nat.mod_two_eq_zero_or_one e with even | odd
        · simp [even, hr]
        · simp [odd, modAdd]
      rw [modMulLoop, if_neg zero, bit, ih _ _ _ (by omega) (Nat.mod_mod _ _), modAdd]
      calc ((r + x * (e % 2)) % modulus + (x + x) % modulus * (e / 2)) % modulus
          = (r + x * (e % 2) + (x + x) * (e / 2)) % modulus := by simp [Nat.add_mod, Nat.mul_mod]
        _ = (r + x * (e % 2 + 2 * (e / 2))) % modulus := by ring_nf
        _ = (r + x * e) % modulus := by rw [Nat.mod_add_div]

/-- The datapath of R102 is modMul: b mod M fits the 64 turns. -/
theorem modMulDatapath_eq {modulus : Nat} (positive : 0 < modulus) (fits : modulus ≤ 2 ^ 64) (a b : Nat) :
    modMulDatapath a b modulus = modMul a b modulus := by
  have bits : b % modulus < 2 ^ 64 := (Nat.mod_lt b positive).trans_le fits
  rw [modMulDatapath, modMulLoop_eq _ _ _ _ _ bits (Nat.zero_mod _), Nat.zero_add, ← Nat.mul_mod, modMul]

/-- Settles O35: the borrow check chooses the residue of the sum, and the loop keeps the product modulo M. -/
theorem datapathsComputeTheFunctions : Obligations.DatapathsComputeTheFunctions := by
  unfold Obligations.DatapathsComputeTheFunctions
  intro a b m
  obtain ⟨positive, fits⟩ := modulus_bounds m
  exact ⟨modAddDatapath_eq a b m, modMulDatapath_eq positive fits a.toNat b.toNat⟩

/-! ### The power (R103) -/

/-- Settles O36: modPow is the reduced integer power (`modPow_eq`), and over the integers exponents add. -/
theorem powerOfSumIsProduct : Obligations.PowerOfSumIsProduct := by
  unfold Obligations.PowerOfSumIsProduct
  intro a b c m _
  rw [modPow_eq, modPow_eq, modPow_eq, modMul, ← Nat.mul_mod, pow_add]

end Sys2Proof.Machine
end

section
/-! The codes of a completion (60_exceptions.md R202). -/

namespace Sys2Proof.Machine

/-- Settles O11: a command's meaning completes with its own codes (`exec_next`); exact working values hold no other error
than RSAW's two. -/
theorem completionCodesPerCommand : Obligations.CompletionCodesPerCommand := by
  unfold Obligations.CompletionCodesPerCommand
  intro i s t working run
  exact (exec_next run).code working.errorKnown

end Sys2Proof.Machine
end
